-- ==== Sys2Proof/Word.lean ====
section
/-! DEFINITION. The machine's word types (00_scope.md R7, R10): bytes of 8 bits, words of 16 bits, 16 register
indices, one-bit framebuffer cells, key vectors of 16 bits. -/

namespace Sys2Proof

/-- A u8 of R10: a general register, a timer, a byte of memory, an 8-bit immediate. -/
abbrev Byte := BitVec 8

/-- A u16 of R10: pc, I, a stack slot, an opcode. -/
abbrev Word := BitVec 16

/-- An index 0 to 15 of a general register (R17) or of a key slot (R27). -/
abbrev Reg := Fin 16

/-- One framebuffer cell, 0 or 1 (R26). -/
abbrev Pixel := BitVec 1

/-- The 16 key slots as one vector: bit k is set when Key[k] is pressed (R8 `keys_c`, R111 `KeyBits`). -/
abbrev KeyVector := BitVec 16

/-- VF, the flag register (R10, R18). -/
abbrev VF : Reg := 15

end Sys2Proof
end

