-- ==== Sys2Proof/Syntax.lean ====
section
/-! DEFINITION. The instructions of the opcode table (30_encoding.md R52), one constructor a row. A register field is an
index (R50, R51); NNN is the address as the u16 the rules use it as; N is the row count. -/

namespace Sys2Proof

/-- The 34 instruction patterns of R52, in the order of opcode_table.json. -/
inductive Instr where
  /-- 00E0 CLS (R104). -/
  | cls
  /-- 00EE RET (R89). -/
  | ret
  /-- 1NNN JP addr (R87). -/
  | jp (nnn : Word)
  /-- 2NNN CALL addr (R88). -/
  | call (nnn : Word)
  /-- 3XNN SE Vx, byte (R90). -/
  | seImm (x : Reg) (nn : Byte)
  /-- 4XNN SNE Vx, byte (R91). -/
  | sneImm (x : Reg) (nn : Byte)
  /-- 5XY0 SE Vx, Vy (R92). -/
  | seReg (x y : Reg)
  /-- 6XNN LD Vx, byte (R72). -/
  | ldImm (x : Reg) (nn : Byte)
  /-- 7XNN ADD Vx, byte (R73). -/
  | addImm (x : Reg) (nn : Byte)
  /-- 8XY0 LD Vx, Vy (R74). -/
  | ldReg (x y : Reg)
  /-- 8XY1 OR Vx, Vy (R75). -/
  | orReg (x y : Reg)
  /-- 8XY2 AND Vx, Vy (R76). -/
  | andReg (x y : Reg)
  /-- 8XY3 XOR Vx, Vy (R77). -/
  | xorReg (x y : Reg)
  /-- 8XY4 ADD Vx, Vy (R78). -/
  | addReg (x y : Reg)
  /-- 8XY5 SUB Vx, Vy (R79). -/
  | subReg (x y : Reg)
  /-- 8XY6 SHR Vx; the Y field is encoded and not used (R80). -/
  | shr (x y : Reg)
  /-- 8XY7 SUBN Vx, Vy (R81). -/
  | subn (x y : Reg)
  /-- 8XYE SHL Vx; the Y field is encoded and not used (R82). -/
  | shl (x y : Reg)
  /-- 9XY0 SNE Vx, Vy (R93). -/
  | sneReg (x y : Reg)
  /-- ANNN LD I, addr (R97). -/
  | ldI (nnn : Word)
  /-- BNNN JP V0, addr (R94). -/
  | jpV0 (nnn : Word)
  /-- CXNN RND Vx, byte (R83). -/
  | rnd (x : Reg) (nn : Byte)
  /-- DXYN DRW Vx, Vy, nibble (R105). -/
  | drw (x y : Reg) (n : Nat)
  /-- EX9E SKP Vx (R108). -/
  | skp (x : Reg)
  /-- EXA1 SKNP Vx (R109). -/
  | sknp (x : Reg)
  /-- FX07 LD Vx, DT (R110). -/
  | ldVxDt (x : Reg)
  /-- FX0A LD Vx, K (R111). -/
  | ldVxK (x : Reg)
  /-- FX15 LD DT, Vx (R113). -/
  | ldDtVx (x : Reg)
  /-- FX18 LD ST, Vx (R114). -/
  | ldStVx (x : Reg)
  /-- FX1E ADD I, Vx (R98). -/
  | addI (x : Reg)
  /-- FX29 LD F, Vx (R99). -/
  | ldF (x : Reg)
  /-- FX33 LD B, Vx (R100). -/
  | bcd (x : Reg)
  /-- FX55 LD [I], Vx (R101). -/
  | stRegs (x : Reg)
  /-- FX65 LD Vx, [I] (R102). -/
  | ldRegs (x : Reg)
  deriving DecidableEq, Repr

end Sys2Proof
end

