-- ==== Sys2Proof/WellFormed.lean ====
section
/-! DEFINITION. Which instructions an encoding exists for (30_encoding.md R50, R51): an NNN field holds 12 bits and an N
field 4; register indices and NN are in range by their types. -/

namespace Sys2Proof

/-- NNN is one of the addresses 0x000 to 0xFFF (R51). -/
abbrev AddrFits (nnn : Word) : Prop := nnn.toNat < 0x1000

/-- N is one of the counts 0 to 15 (R51). -/
abbrev CountFits (n : Nat) : Prop := n < 16

/-- Every operand fits its field (R50, R51). -/
def Instr.wf : Instr → Bool
  | .jp nnn => decide (AddrFits nnn)
  | .call nnn => decide (AddrFits nnn)
  | .ldI nnn => decide (AddrFits nnn)
  | .jpV0 nnn => decide (AddrFits nnn)
  | .drw _ _ n => decide (CountFits n)
  | .cls => true
  | .ret => true
  | .seImm _ _ => true
  | .sneImm _ _ => true
  | .seReg _ _ => true
  | .ldImm _ _ => true
  | .addImm _ _ => true
  | .ldReg _ _ => true
  | .orReg _ _ => true
  | .andReg _ _ => true
  | .xorReg _ _ => true
  | .addReg _ _ => true
  | .subReg _ _ => true
  | .shr _ _ => true
  | .subn _ _ => true
  | .shl _ _ => true
  | .sneReg _ _ => true
  | .rnd _ _ => true
  | .skp _ => true
  | .sknp _ => true
  | .ldVxDt _ => true
  | .ldVxK _ => true
  | .ldDtVx _ => true
  | .ldStVx _ => true
  | .addI _ => true
  | .ldF _ => true
  | .bcd _ => true
  | .stRegs _ => true
  | .ldRegs _ => true

/-- The check as a proposition. -/
abbrev Instr.WellFormed (i : Instr) : Prop := i.wf = true

end Sys2Proof
end

