-- ==== Sys2Proof/Decode.lean ====
section
/-! DEFINITION. Decoding and encoding (30_encoding.md R49 to R56). Decoding is total: a word gives one instruction of
R52 or is rejected by name. The encoder is written from the same table. -/

namespace Sys2Proof

/-! ## Fields (R50) -/

/-- The class nibble, op[15:12]. -/
def classOf (op : Word) : Nat := (op.extractLsb' 12 4).toNat

/-- X, op[11:8]. -/
def fieldX (op : Word) : Reg := (op.extractLsb' 8 4).toFin

/-- Y, op[7:4]. -/
def fieldY (op : Word) : Reg := (op.extractLsb' 4 4).toFin

/-- N, op[3:0], an unsigned count (R51). -/
def fieldN (op : Word) : Nat := (op.extractLsb' 0 4).toNat

/-- NN, op[7:0] (R51). -/
def fieldNN (op : Word) : Byte := op.extractLsb' 0 8

/-- NNN, op[11:0], zero-extended to the u16 the rules use (R51). -/
def fieldNNN (op : Word) : Word := (op.extractLsb' 0 12).setWidth 16

/-- Two bytes as one big-endian word: the first byte is bits 15 to 8 (R38, R49). -/
def wordOfBytes (hi lo : Byte) : Word := hi ++ lo

/-- The byte stored at the lower address (R38, R49). -/
def hiByte (op : Word) : Byte := op.extractLsb' 8 8

/-- The byte stored at the higher address (R38, R49). -/
def loByte (op : Word) : Byte := op.extractLsb' 0 8

/-! ## Decoding (R52, R53) -/

/-- What decoding one word gives: one instruction, or the rejection that carries the word (R54, R55). -/
inductive Decoded where
  /-- The word matches the pattern of exactly one row of R52. -/
  | instr (i : Instr)
  /-- The word matches no pattern: UnknownOpcode(op) (R55). -/
  | unknownOpcode (op : Word)
  deriving DecidableEq, Repr

/-- Class 8 dispatches on N (R52). -/
def decodeClass8 (op : Word) : Decoded :=
  match fieldN op with
  | 0x0 => .instr (.ldReg (fieldX op) (fieldY op))
  | 0x1 => .instr (.orReg (fieldX op) (fieldY op))
  | 0x2 => .instr (.andReg (fieldX op) (fieldY op))
  | 0x3 => .instr (.xorReg (fieldX op) (fieldY op))
  | 0x4 => .instr (.addReg (fieldX op) (fieldY op))
  | 0x5 => .instr (.subReg (fieldX op) (fieldY op))
  | 0x6 => .instr (.shr (fieldX op) (fieldY op))
  | 0x7 => .instr (.subn (fieldX op) (fieldY op))
  | 0xE => .instr (.shl (fieldX op) (fieldY op))
  | _ => .unknownOpcode op

/-- Class F dispatches on NN (R52). -/
def decodeClassF (op : Word) : Decoded :=
  if fieldNN op = 0x07#8 then .instr (.ldVxDt (fieldX op))
  else if fieldNN op = 0x0A#8 then .instr (.ldVxK (fieldX op))
  else if fieldNN op = 0x15#8 then .instr (.ldDtVx (fieldX op))
  else if fieldNN op = 0x18#8 then .instr (.ldStVx (fieldX op))
  else if fieldNN op = 0x1E#8 then .instr (.addI (fieldX op))
  else if fieldNN op = 0x29#8 then .instr (.ldF (fieldX op))
  else if fieldNN op = 0x33#8 then .instr (.bcd (fieldX op))
  else if fieldNN op = 0x55#8 then .instr (.stRegs (fieldX op))
  else if fieldNN op = 0x65#8 then .instr (.ldRegs (fieldX op))
  else .unknownOpcode op

/-- The dispatch of R52: the class nibble first, then the fixed nibbles or bytes of the patterns (R53). -/
def decodeWord (op : Word) : Decoded :=
  match classOf op with
  | 0x0 =>
    if op = 0x00E0#16 then .instr .cls
    else if op = 0x00EE#16 then .instr .ret
    else .unknownOpcode op
  | 0x1 => .instr (.jp (fieldNNN op))
  | 0x2 => .instr (.call (fieldNNN op))
  | 0x3 => .instr (.seImm (fieldX op) (fieldNN op))
  | 0x4 => .instr (.sneImm (fieldX op) (fieldNN op))
  | 0x5 => if fieldN op = 0 then .instr (.seReg (fieldX op) (fieldY op)) else .unknownOpcode op
  | 0x6 => .instr (.ldImm (fieldX op) (fieldNN op))
  | 0x7 => .instr (.addImm (fieldX op) (fieldNN op))
  | 0x8 => decodeClass8 op
  | 0x9 => if fieldN op = 0 then .instr (.sneReg (fieldX op) (fieldY op)) else .unknownOpcode op
  | 0xA => .instr (.ldI (fieldNNN op))
  | 0xB => .instr (.jpV0 (fieldNNN op))
  | 0xC => .instr (.rnd (fieldX op) (fieldNN op))
  | 0xD => .instr (.drw (fieldX op) (fieldY op) (fieldN op))
  | 0xE =>
    if fieldNN op = 0x9E#8 then .instr (.skp (fieldX op))
    else if fieldNN op = 0xA1#8 then .instr (.sknp (fieldX op))
    else .unknownOpcode op
  | 0xF => decodeClassF op
  | _ => .unknownOpcode op

/-- What decoding a byte stream gives (R49: every instruction is two bytes). -/
inductive DecodedBytes where
  /-- An instruction and the bytes after it. -/
  | instr (i : Instr) (rest : List Byte)
  /-- The first two bytes match no pattern. -/
  | unknownOpcode (op : Word)
  /-- Fewer than two bytes are left. -/
  | truncated (bytes : List Byte)
  deriving DecidableEq, Repr

/-- Decode the instruction at the front of a byte stream, big-endian (R38, R49). -/
def decodeBytes : List Byte → DecodedBytes
  | hi :: lo :: rest =>
    match decodeWord (wordOfBytes hi lo) with
    | .instr i => .instr i rest
    | .unknownOpcode op => .unknownOpcode op
  | short => .truncated short

/-! ## Encoding (R50, R52) -/

/-- A word from its class nibble and its low 12 bits. -/
def packNNN (cls : Nat) (nnn : Word) : Word := BitVec.ofNat 16 (cls * 0x1000 + nnn.toNat)

/-- A word from its class nibble, X and NN. -/
def packXNN (cls : Nat) (x : Reg) (nn : Byte) : Word :=
  BitVec.ofNat 16 (cls * 0x1000 + x.val * 0x100 + nn.toNat)

/-- A word from its four nibbles. -/
def packXYN (cls : Nat) (x y : Reg) (n : Nat) : Word :=
  BitVec.ofNat 16 (cls * 0x1000 + x.val * 0x100 + y.val * 0x10 + n)

/-- The word of a well-formed instruction, row by row of R52. -/
def encode : Instr → Word
  | .cls => 0x00E0#16
  | .ret => 0x00EE#16
  | .jp nnn => packNNN 0x1 nnn
  | .call nnn => packNNN 0x2 nnn
  | .seImm x nn => packXNN 0x3 x nn
  | .sneImm x nn => packXNN 0x4 x nn
  | .seReg x y => packXYN 0x5 x y 0x0
  | .ldImm x nn => packXNN 0x6 x nn
  | .addImm x nn => packXNN 0x7 x nn
  | .ldReg x y => packXYN 0x8 x y 0x0
  | .orReg x y => packXYN 0x8 x y 0x1
  | .andReg x y => packXYN 0x8 x y 0x2
  | .xorReg x y => packXYN 0x8 x y 0x3
  | .addReg x y => packXYN 0x8 x y 0x4
  | .subReg x y => packXYN 0x8 x y 0x5
  | .shr x y => packXYN 0x8 x y 0x6
  | .subn x y => packXYN 0x8 x y 0x7
  | .shl x y => packXYN 0x8 x y 0xE
  | .sneReg x y => packXYN 0x9 x y 0x0
  | .ldI nnn => packNNN 0xA nnn
  | .jpV0 nnn => packNNN 0xB nnn
  | .rnd x nn => packXNN 0xC x nn
  | .drw x y n => packXYN 0xD x y n
  | .skp x => packXNN 0xE x 0x9E#8
  | .sknp x => packXNN 0xE x 0xA1#8
  | .ldVxDt x => packXNN 0xF x 0x07#8
  | .ldVxK x => packXNN 0xF x 0x0A#8
  | .ldDtVx x => packXNN 0xF x 0x15#8
  | .ldStVx x => packXNN 0xF x 0x18#8
  | .addI x => packXNN 0xF x 0x1E#8
  | .ldF x => packXNN 0xF x 0x29#8
  | .bcd x => packXNN 0xF x 0x33#8
  | .stRegs x => packXNN 0xF x 0x55#8
  | .ldRegs x => packXNN 0xF x 0x65#8

/-- The two bytes of an instruction as memory holds them, lower address first (R38, R49). -/
def encodeBytes (i : Instr) : List Byte := [hiByte (encode i), loByte (encode i)]

/-! ## The opcode table as data (opcode_table.json) -/

/-- One row of the opcode table: the fixed bits and their values. -/
structure OpcodeRow where
  /-- The row's mnemonic in opcode_table.json. -/
  mnemonic : String
  /-- The value of the fixed bits. -/
  pattern : Word
  /-- Which bits are fixed. -/
  mask : Word
  deriving DecidableEq, Repr

/-- A word matches a row when its fixed bits have the row's values (R53). -/
abbrev OpcodeRow.Matches (r : OpcodeRow) (op : Word) : Prop := op &&& r.mask = r.pattern

/-- Rows of the classes 0 to 7. -/
def opcodeRowsLow : List OpcodeRow :=
  [⟨"00E0_CLS", 0x00E0#16, 0xFFFF#16⟩, ⟨"00EE_RET", 0x00EE#16, 0xFFFF#16⟩,
   ⟨"1NNN_JP_addr", 0x1000#16, 0xF000#16⟩, ⟨"2NNN_CALL_addr", 0x2000#16, 0xF000#16⟩,
   ⟨"3XNN_SE_Vx__byte", 0x3000#16, 0xF000#16⟩, ⟨"4XNN_SNE_Vx__byte", 0x4000#16, 0xF000#16⟩,
   ⟨"5XY0_SE_Vx__Vy", 0x5000#16, 0xF00F#16⟩, ⟨"6XNN_LD_Vx__byte", 0x6000#16, 0xF000#16⟩,
   ⟨"7XNN_ADD_Vx__byte", 0x7000#16, 0xF000#16⟩]

/-- Rows of the class 8. -/
def opcodeRowsClass8 : List OpcodeRow :=
  [⟨"8XY0_LD_Vx__Vy", 0x8000#16, 0xF00F#16⟩, ⟨"8XY1_OR_Vx__Vy", 0x8001#16, 0xF00F#16⟩,
   ⟨"8XY2_AND_Vx__Vy", 0x8002#16, 0xF00F#16⟩, ⟨"8XY3_XOR_Vx__Vy", 0x8003#16, 0xF00F#16⟩,
   ⟨"8XY4_ADD_Vx__Vy", 0x8004#16, 0xF00F#16⟩, ⟨"8XY5_SUB_Vx__Vy", 0x8005#16, 0xF00F#16⟩,
   ⟨"8XY6_SHR_Vx", 0x8006#16, 0xF00F#16⟩, ⟨"8XY7_SUBN_Vx__Vy", 0x8007#16, 0xF00F#16⟩,
   ⟨"8XYE_SHL_Vx", 0x800E#16, 0xF00F#16⟩]

/-- Rows of the classes 9 to F. -/
def opcodeRowsHigh : List OpcodeRow :=
  [⟨"9XY0_SNE_Vx__Vy", 0x9000#16, 0xF00F#16⟩, ⟨"ANNN_LD_I__addr", 0xA000#16, 0xF000#16⟩,
   ⟨"BNNN_JP_V0__addr", 0xB000#16, 0xF000#16⟩, ⟨"CXNN_RND_Vx__byte", 0xC000#16, 0xF000#16⟩,
   ⟨"DXYN_DRW_Vx__Vy__nibble", 0xD000#16, 0xF000#16⟩, ⟨"EX9E_SKP_Vx", 0xE09E#16, 0xF0FF#16⟩,
   ⟨"EXA1_SKNP_Vx", 0xE0A1#16, 0xF0FF#16⟩, ⟨"FX07_LD_Vx__DT", 0xF007#16, 0xF0FF#16⟩,
   ⟨"FX0A_LD_Vx__K", 0xF00A#16, 0xF0FF#16⟩, ⟨"FX15_LD_DT__Vx", 0xF015#16, 0xF0FF#16⟩,
   ⟨"FX18_LD_ST__Vx", 0xF018#16, 0xF0FF#16⟩, ⟨"FX1E_ADD_I__Vx", 0xF01E#16, 0xF0FF#16⟩,
   ⟨"FX29_LD_F__Vx", 0xF029#16, 0xF0FF#16⟩, ⟨"FX33_LD_B__Vx", 0xF033#16, 0xF0FF#16⟩,
   ⟨"FX55_LD__I___Vx", 0xF055#16, 0xF0FF#16⟩, ⟨"FX65_LD_Vx___I", 0xF065#16, 0xF0FF#16⟩]

/-- The 34 rows of opcode_table.json, match and mask as it gives them (R52). -/
def opcodeTable : List OpcodeRow := opcodeRowsLow ++ opcodeRowsClass8 ++ opcodeRowsHigh

/-! ## The host's question -/

/-- The instruction the decoder reads from the table word w of nbits bits: the word laid out as memory holds it, high
byte first (R38), the bits above nbits zero. -/
def decodeTableWord (nbits w : Nat) : Option Instr :=
  let op := BitVec.ofNat 16 (w % 2 ^ nbits)
  match decodeBytes [hiByte op, loByte op] with
  | .instr i _ => some i
  | .unknownOpcode _ => none
  | .truncated _ => none

end Sys2Proof
end

