-- ==== Sys2Proof/Config.lean ====
section
/-! DEFINITION. What the spec leaves to the implementation or to the outside (00_scope.md R8, 10_state.md R31): the font
parameters with the spec's defaults, and the two free values. -/

namespace Sys2Proof

/-- The parameters the engine takes as arguments (R8, R31). FONT_BASE + 80 <= 0x200 holds by the type of the base. -/
structure Params where
  /-- FONT_BASE, at most 0x200 - 80 = 432 (R8). -/
  fontBase : Fin 433
  /-- FONT_TABLE, 16 glyphs of 5 bytes (R7, R33). -/
  fontTable : Vector Byte 80
  deriving DecidableEq, Repr

namespace Config

/-- The default font, digit by digit (R33). PRESUMED by the spec itself: general knowledge, no source gives the bytes
(log 2, unsafe for a claim about glyph pixels). -/
def defaultFontTable : Vector Byte 80 :=
  #v[0xF0#8, 0x90#8, 0x90#8, 0x90#8, 0xF0#8,  -- 0
     0x20#8, 0x60#8, 0x20#8, 0x20#8, 0x70#8,  -- 1
     0xF0#8, 0x10#8, 0xF0#8, 0x80#8, 0xF0#8,  -- 2
     0xF0#8, 0x10#8, 0xF0#8, 0x10#8, 0xF0#8,  -- 3
     0x90#8, 0x90#8, 0xF0#8, 0x10#8, 0x10#8,  -- 4
     0xF0#8, 0x80#8, 0xF0#8, 0x10#8, 0xF0#8,  -- 5
     0xF0#8, 0x80#8, 0xF0#8, 0x90#8, 0xF0#8,  -- 6
     0xF0#8, 0x10#8, 0x20#8, 0x40#8, 0x40#8,  -- 7
     0xF0#8, 0x90#8, 0xF0#8, 0x90#8, 0xF0#8,  -- 8
     0xF0#8, 0x90#8, 0xF0#8, 0x10#8, 0xF0#8,  -- 9
     0xF0#8, 0x90#8, 0xF0#8, 0x90#8, 0x90#8,  -- A
     0xE0#8, 0x90#8, 0xE0#8, 0x90#8, 0xE0#8,  -- B
     0xF0#8, 0x80#8, 0x80#8, 0x80#8, 0xF0#8,  -- C
     0xE0#8, 0x90#8, 0x90#8, 0x90#8, 0xE0#8,  -- D
     0xF0#8, 0x80#8, 0xF0#8, 0x80#8, 0xF0#8,  -- E
     0xF0#8, 0x80#8, 0xF0#8, 0x80#8, 0x80#8]  -- F

/-- The spec's default parameters: FONT_BASE = 0x050 and the conventional font (R8, D1, D2; log 2). -/
def defaultParams : Params := ⟨0x050, defaultFontTable⟩

/-- FREE VALUE. The byte CXNN's n-th draw gives (R85, D17): nothing constrains it (log 4, safe). -/
opaque freeRandomByte : Nat → Byte

/-- FREE VALUE. The key vector presented to cycle c where the host's queue gives none (R8 `keys_c`, R129, D16): nothing
constrains it (log 3, safe). -/
opaque freeKeys : Nat → KeyVector

end Config

end Sys2Proof
end

