-- ==== Sys2Proof/Machine/State.lean ====
section
/-! DEFINITION. The state of the engine, every piece the spec gives it (10_state.md R17 to R35), the reasons a step can
stop, and the state right after reset (70_reset_and_hazards.md R135). Plain data throughout. -/

namespace Sys2Proof.Machine

/-! ## Errors (R30, R115, R116) -/

/-- The error kinds of R115. -/
inductive ErrorKind where
  | unknownOpcode
  | stackUnderflow
  | stackOverflow
  | outOfBounds
  | ioError
  deriving DecidableEq, Repr

/-- The cause code of a kind (R116; D15, the spec's own numbering). -/
def ErrorKind.code : ErrorKind → Nat
  | .unknownOpcode => 1
  | .stackUnderflow => 2
  | .stackOverflow => 3
  | .outOfBounds => 4
  | .ioError => 5

/-- What was raised, with the info that R115 records for it. -/
inductive ErrorCause where
  /-- The fetched word matches no pattern; the word is recorded. -/
  | unknownOpcode (op : Word)
  /-- A return with the stack empty. -/
  | stackUnderflow
  /-- A call with 16 entries on the stack. -/
  | stackOverflow
  /-- A memory access outside 0 to 4095; the address, a natural number, is recorded. -/
  | outOfBounds (addr : Nat)
  /-- `load_program` with an image over 3584 bytes; its length is recorded. -/
  | imageTooLarge (length : Nat)
  /-- The loader could not supply the image. -/
  | ioError
  deriving DecidableEq, Repr

/-- The kind of a cause: both OutOfBounds rows of R115 have one kind. -/
def ErrorCause.kind : ErrorCause → ErrorKind
  | .unknownOpcode _ => .unknownOpcode
  | .stackUnderflow => .stackUnderflow
  | .stackOverflow => .stackOverflow
  | .outOfBounds _ => .outOfBounds
  | .imageTooLarge _ => .outOfBounds
  | .ioError => .ioError

/-- The number a cause records: opcode, address or length; nothing for the others (R30). -/
def ErrorCause.info : ErrorCause → Option Nat
  | .unknownOpcode op => some op.toNat
  | .stackUnderflow => none
  | .stackOverflow => none
  | .outOfBounds addr => some addr
  | .imageTooLarge length => some length
  | .ioError => none

/-- An error record (R30): kind, code and info follow from the cause; pc is absent for `load_program`'s errors. -/
structure ErrorRecord where
  cause : ErrorCause
  pc : Option Word
  deriving DecidableEq, Repr

/-! ## Run state and outputs (R28, R29) -/

/-- The run state of R28. -/
inductive RunState where
  /-- Each cycle fetches and executes an instruction. -/
  | running
  /-- FX0A is waiting: the destination and the key snapshot (R111, R112). -/
  | waitingForKey (x : Reg) (prev : KeyVector)
  /-- An error has been raised (R118). -/
  | halted (e : ErrorRecord)
  deriving DecidableEq, Repr

/-- The three flags a cycle returns (R69). -/
structure Outputs where
  needsRedraw : Bool
  needsClear : Bool
  tone : Bool
  deriving DecidableEq, Repr

/-- All three false, as at the start of every cycle (R60). -/
def Outputs.none : Outputs := ⟨false, false, false⟩

/-- What a cycle returns to the driver (R59). -/
inductive CycleResult where
  | ok (out : Outputs)
  | err (e : ErrorRecord)
  deriving DecidableEq, Repr

/-! ## The state -/

/-- Memory as the bytes that differ from what reset left there, by rising address (R25, R36). -/
abbrev Memory := List Host.Cell

/-- The state of the engine. The first eleven fields are the spec's (10_state.md section 13); `out` holds the flags that the
spec returns by value (R29, log 1); `params` are the parameters of R31 (log 2); `keyInputs`, `cycles` and `draws` are the
model's own (log 3, log 4). -/
structure State where
  /-- V0 to VF (R17, R18). -/
  v : Vector Byte 16
  /-- The program counter (R19). -/
  pc : Word
  /-- The index register I (R20). -/
  i : Word
  /-- The delay timer DT (R21). -/
  dt : Byte
  /-- The sound timer ST (R22). -/
  st : Byte
  /-- The stack pointer SP, 0 to 16 (R23). -/
  sp : Fin 17
  /-- The call stack (R24). -/
  stack : Vector Word 16
  /-- Memory (R25). -/
  mem : Memory
  /-- The framebuffer, 32 rows of 64 cells (R26). -/
  fb : Vector (Vector Pixel 64) 32
  /-- The key table as the current cycle sees it (R27, R70). -/
  keys : KeyVector
  /-- The run state (R28). -/
  run : RunState
  /-- The flags of the cycle: being collected while it runs, returned when it ends (R60, R69; log 1). -/
  out : Outputs
  /-- FONT_BASE and FONT_TABLE: no step writes them (R8, R31; log 2). -/
  params : Params
  /-- The key vectors the host has decided to present to the coming cycles, next first (R129; log 3). -/
  keyInputs : List KeyVector
  /-- The index of the next cycle, for Config.freeKeys (log 3). -/
  cycles : Nat
  /-- The index of the next random draw, for Config.freeRandomByte (log 4). -/
  draws : Nat
  deriving DecidableEq, Repr

/-- The framebuffer with every cell 0 (R104, R135). -/
def clearFramebuffer : Vector (Vector Pixel 64) 32 := Vector.replicate 32 (Vector.replicate 64 0#1)

/-- What `reset()` leaves, for any font parameters (R135). Memory lists nothing: an unlisted address reads as the font
byte or 0 (Memory.unlisted in Machine/Ops.lean). -/
def State.resetWith (p : Params) : State where
  v := Vector.replicate 16 0#8
  pc := 0x200#16
  i := 0#16
  dt := 0#8
  st := 0#8
  sp := 0
  stack := Vector.replicate 16 0#16
  mem := []
  fb := clearFramebuffer
  keys := 0#16
  run := .running
  out := Outputs.none
  params := p
  keyInputs := []
  cycles := 0
  draws := 0

/-- The machine right after reset, with the default font (R135, D1, D2). -/
def State.reset : State := State.resetWith Config.defaultParams

/-! ## Reasons a step can stop -/

/-- Faults of the model. There are none: the spec describes what raising an error does (R118), so an error is a next
state whose run state is Halted, and no step of this machine ends in a fault (safe: no behaviour is cut off). -/
inductive Fault : Type where
  deriving DecidableEq, Repr

/-- Refusals of the model. -/
inductive Refusal where
  /-- Raised by `exec` for an instruction without a meaning. No instruction of this model is one (safe). -/
  | notModelled (mnemonic : String)
  /-- Raised by `hostMove` (Machine/Driver.lean), never by `step`: the host's move is not at its place in the boot order
  and the spec gives it no move (R131, R137; log 18; safe). -/
  | hostMoveOutOfOrder
  deriving DecidableEq, Repr

/-- What one instruction or one cycle answers. -/
abbrev Answer := Host.Outcome State Fault Refusal

end Sys2Proof.Machine
end

