-- ==== Sys2Proof/Machine/Ops.lean ====
section
/-! DEFINITION. The named operations over the state that the instructions share: memory, registers, stack, framebuffer,
keys, pc, raising an error and leaving it, the fetch, the timer tick and what a cycle does around an instruction. -/

namespace Sys2Proof.Machine

/-! ## Memory (20_memory.md R36 to R41) -/

/-- MEM_SIZE: addresses 0x000 to 0xFFF exist (R7, R36). -/
def memSize : Nat := 4096

/-- PROGRAM_START, where the image is loaded and pc starts (R7, R37). -/
def programStart : Nat := 0x200

/-- What an address nothing has stored to reads as: what reset left there, the font byte or 0 (R25, R32, R35). -/
def Memory.unlisted (p : Params) (a : Nat) : Byte :=
  if p.fontBase.val ≤ a then (p.fontTable.toList[a - p.fontBase.val]?).getD 0#8 else 0#8

/-- The byte at an address, whether or not the address exists. -/
def Memory.read (base : Nat → Byte) : Memory → Nat → Byte
  | [], a => base a
  | c :: m, a => if a = c.1 then c.2 else Memory.read base m a

/-- Put one entry in front, unless it says what the unlisted address reads as. -/
def Memory.cons (base : Nat → Byte) (a : Nat) (b : Byte) (m : Memory) : Memory :=
  if b = base a then m else (a, b) :: m

/-- Write the byte at an address, keeping the canonical form. -/
def Memory.write (base : Nat → Byte) : Memory → Nat → Byte → Memory
  | [], a, b => Memory.cons base a b []
  | c :: m, a, b =>
    if a < c.1 then Memory.cons base a b (c :: m)
    else if a = c.1 then Memory.cons base a b m
    else c :: Memory.write base m a b

/-- The canonical form above an address: strictly rising, existing addresses, no entry equal to the unlisted byte. -/
def Memory.wfFrom (base : Nat → Byte) : Nat → Memory → Bool
  | _, [] => true
  | lo, c :: m => decide (lo ≤ c.1) && decide (c.1 < memSize) && decide (c.2 ≠ base c.1) && Memory.wfFrom base (c.1 + 1) m

/-- The canonical form: equal memories are equal lists. -/
def Memory.wf (base : Nat → Byte) (m : Memory) : Bool := Memory.wfFrom base 0 m

/-- What an unlisted address of this machine reads as. -/
def State.unlisted (s : State) : Nat → Byte := Memory.unlisted s.params

/-- The byte memory holds at an address. -/
def State.byteAt (s : State) (a : Nat) : Byte := s.mem.read s.unlisted a

/-- `MemRead(addr, 1)`: none is OutOfBounds(addr) (R41). -/
def State.memRead (s : State) (a : Nat) : Option Byte :=
  if a < memSize then some (s.byteAt a) else none

/-- Memory with one byte written, whether or not the address exists. -/
def State.poke (s : State) (a : Nat) (b : Byte) : State := { s with mem := s.mem.write s.unlisted a b }

/-- `MemWrite(addr, 1, v)`: none is OutOfBounds(addr) (R41). -/
def State.memWrite (s : State) (a : Nat) (b : Byte) : Option State :=
  if a < memSize then some (s.poke a b) else none

/-! ## Fields with one home -/

/-- `V[r]` (R10, R17). -/
def State.getV (s : State) (r : Reg) : Byte := s.v[r]

/-- `V[r] <- b` (R10, R17). -/
def State.setV (s : State) (r : Reg) (b : Byte) : State := { s with v := s.v.set r.val b }

/-- `I <- w` (R20). -/
def State.setI (s : State) (w : Word) : State := { s with i := w }

/-- `DT <- b` (R21). -/
def State.setDt (s : State) (b : Byte) : State := { s with dt := b }

/-- `ST <- b` (R22). -/
def State.setSt (s : State) (b : Byte) : State := { s with st := b }

/-- `pc <- target` (R19). -/
def State.setPc (s : State) (w : Word) : State := { s with pc := w }

/-- `S.run <- r` (R28). -/
def State.setRun (s : State) (r : RunState) : State := { s with run := r }

/-- `out <- o` (R60, R69). -/
def State.setOut (s : State) (o : Outputs) : State := { s with out := o }

/-- `Key[k]`, the slot as this cycle sees it (R27, R70). -/
def State.key (s : State) (k : Reg) : Bool := s.keys.getLsbD k.val

/-- The host's write of one key slot, between cycles (R129, R131). -/
def State.writeKey (s : State) (k : Reg) (pressed : Bool) : State :=
  { s with keys := if pressed then s.keys ||| (1#16 <<< k.val) else s.keys &&& ~~~(1#16 <<< k.val) }

/-! ## pc (R12, R19, R64): arithmetic modulo 65536 -/

/-- The next instruction. -/
def State.advance (s : State) : State := s.setPc (s.pc + 2#16)

/-- "Skip next" when the condition holds (R12). -/
def State.skipIf (s : State) (c : Bool) : State := s.setPc (if c then s.pc + 4#16 else s.pc + 2#16)

/-! ## Call stack (R23, R24) -/

/-- `Stack[k]`, slot k. -/
def State.slot (s : State) (k : Fin 16) : Word := s.stack[k]

/-- Write `Stack[SP]`, then increment SP; none when 16 slots are occupied (R24, R88). -/
def State.push (s : State) (w : Word) : Option State :=
  if h : s.sp.val < 16 then
    some { s with stack := s.stack.set s.sp.val w, sp := ⟨s.sp.val + 1, by omega⟩ }
  else none

/-- Decrement SP, then read `Stack[SP]`, which is not cleared; none when the stack is empty (R24, R89). -/
def State.pop (s : State) : Option (Word × State) :=
  if s.sp.val = 0 then none
  else some (s.stack[s.sp.val - 1], { s with sp := ⟨s.sp.val - 1, by omega⟩ })

/-! ## Framebuffer (R26, R104 to R107) -/

/-- `CellIndex(x, y)`: the row-major index modulo the cell count (R106, D30). -/
def cellIndex (x y : Nat) : Fin 2048 := ⟨(x + 64 * y) % 2048, Nat.mod_lt _ (by decide)⟩

/-- `FB[k]`: column k mod 64 of row k div 64 (R26). -/
def State.getPixel (s : State) (k : Fin 2048) : Pixel := s.fb[k.val / 64][k.val % 64]

/-- `FB[k] <- p`. -/
def State.setPixel (s : State) (k : Fin 2048) (p : Pixel) : State :=
  { s with fb := s.fb.set (k.val / 64) (s.fb[k.val / 64].set (k.val % 64) p) }

/-- `for k = 0 to 2047: FB[k] <- 0` (R104). -/
def State.clearFb (s : State) : State := { s with fb := clearFramebuffer }

/-- One set sprite bit: the collision test, then the XOR with 1 (R105). -/
def State.flipPixel (s : State) (k : Fin 2048) : State :=
  let hit := if s.getPixel k = 1#1 then s.setV VF 1#8 else s
  hit.setPixel k (s.getPixel k ^^^ 1#1)

/-! ## Raising an error and leaving it (60_exceptions.md R118, R119) -/

/-- `raise E(info)` (R68, R118): writes already made stay, pc stays and is recorded, the flags are discarded, the run
state becomes Halted. Raised in a cycle, so no tick follows (State.endCycle). -/
def State.raise (s : State) (c : ErrorCause) : State :=
  (s.setOut Outputs.none).setRun (.halted ⟨c, some s.pc⟩)

/-- The only way out of Halted: `reset()`, which reinitialises every piece of the spec's state (R119, R135). The model's
own fields go on, so that no free value is drawn twice (log 3, log 4). -/
def State.hostReset (s : State) : State :=
  { State.resetWith s.params with keyInputs := s.keyInputs, cycles := s.cycles, draws := s.draws }

/-- What `cycle` returned, read from the state it left: Err(e) exactly when the run state is Halted(e) (R59, R67, R68). -/
def State.cycleResult (s : State) : CycleResult :=
  match s.run with
  | .running => .ok s.out
  | .waitingForKey _ _ => .ok s.out
  | .halted e => .err e

/-! ## An instruction's accesses, and how it ends -/

/-- Where a sequence of accesses stands: all done, or stopped at the first error with the writes made so far. -/
inductive Progress where
  | done (s : State)
  | stopped (c : ErrorCause) (s : State)
  deriving DecidableEq, Repr

/-- The end of an instruction: after all its accesses what `k` does, after an error the raise (R68). -/
def Progress.finish (p : Progress) (k : State → State) : Answer :=
  match p with
  | .done s => .next (k s)
  | .stopped c s => .next (s.raise c)

/-- Store bytes at ascending addresses, one access each; the bytes before a failing access stay (R39, R41, D11). -/
def State.storeBytes : List Byte → Nat → State → Progress
  | [], _, s => .done s
  | b :: bs, a, s =>
    match s.memWrite a b with
    | some s' => State.storeBytes bs (a + 1) s'
    | none => .stopped (.outOfBounds a) s

/-- Load registers, in order, from ascending addresses; the registers before a failing access stay loaded (R39, R41, D11). -/
def State.loadRegs : List Reg → Nat → State → Progress
  | [], _, s => .done s
  | r :: rs, a, s =>
    match s.memRead a with
    | some b => State.loadRegs rs (a + 1) (s.setV r b)
    | none => .stopped (.outOfBounds a) s

/-- One row of a sprite at (x0, y): its set bits, most-significant first (R105). -/
def State.drawRow (x0 y : Nat) (sprite : Byte) : List Nat → State → State
  | [], s => s
  | col :: cols, s =>
    State.drawRow x0 y sprite cols (if sprite.getLsbD (7 - col) then s.flipPixel (cellIndex (x0 + col) y) else s)

/-- The columns of a sprite row. -/
def spriteCols : List Nat := [0, 1, 2, 3, 4, 5, 6, 7]

/-- `count` rows of a sprite from row `row` on: each reads its byte at I + row, then draws it (R105). -/
def State.drawRows (x0 y0 : Nat) : (count row : Nat) → State → Progress
  | 0, _, s => .done s
  | count + 1, row, s =>
    match s.memRead (s.i.toNat + row) with
    | some sprite => State.drawRows x0 y0 count (row + 1) (State.drawRow x0 (y0 + row) sprite spriteCols s)
    | none => .stopped (.outOfBounds (s.i.toNat + row)) s

/-! ## The cycle around an instruction (40_cycle.md R60 to R68) -/

/-- What the fetch gives. -/
inductive Fetched where
  | word (op : Word)
  | stopped (c : ErrorCause)
  deriving DecidableEq, Repr

/-- `Fetch()`: the bytes at pc and pc + 1, big-endian, the first failing access named (R62, R117). -/
def State.fetch (s : State) : Fetched :=
  match s.memRead s.pc.toNat with
  | none => .stopped (.outOfBounds s.pc.toNat)
  | some hi =>
    match s.memRead (s.pc.toNat + 1) with
    | none => .stopped (.outOfBounds (s.pc.toNat + 1))
    | some lo => .word (wordOfBytes hi lo)

/-- The key vector of this cycle: the next one of the host's queue, else a free value (R129, D16; log 3). -/
def State.presentKeys (s : State) : State :=
  match s.keyInputs with
  | k :: ks => { s with keys := k, keyInputs := ks, cycles := s.cycles + 1 }
  | [] => { s with keys := Config.freeKeys s.cycles, cycles := s.cycles + 1 }

/-- The start of a cycle: its key vector, and all three flags false (R60, R70). -/
def State.beginCycle (s : State) : State := s.presentKeys.setOut Outputs.none

/-- `TimerTick(out)` (R123). -/
def State.tick (s : State) : State :=
  { s with
    dt := if s.dt = 0#8 then s.dt else s.dt - 1#8
    st := if s.st = 0#8 then s.st else s.st - 1#8
    out := if s.st = 1#8 then { s.out with tone := true } else s.out }

/-- The end of a cycle: one tick, but none in a cycle that raised an error (R61, R66, R68). -/
def State.endCycle (s : State) : State :=
  match s.run with
  | .running => s.tick
  | .waitingForKey _ _ => s.tick
  | .halted _ => s

/-- The end of a cycle, under an outcome. -/
def endCycleOf (o : Answer) : Answer :=
  match o with
  | .next s => .next s.endCycle
  | .fault f => .fault f
  | .refused r => .refused r

/-- The two bytes of a word at an address and the next. -/
def State.pokeWord (s : State) (a : Nat) (op : Word) : State := (s.poke a (hiByte op)).poke (a + 1) (loByte op)

/-- The state in which the very next step fetches and runs a given word: running, pc where a word can be fetched (left
as it is where one can), and the word stored there (log 19). -/
def State.placeWord (s : State) (op : Word) : State :=
  let pc := if s.pc.toNat + 1 < memSize then s.pc else 0x200#16
  ((s.setRun .running).setPc pc).pokeWord pc.toNat op

end Sys2Proof.Machine
end

