-- ==== Sys2Proof/Machine/Operands.lean ====
section
/-! DEFINITION. The operand forms: the registers V0 to Vx, the low nibble of a register, the data address I + k, and the
glyph address (30_encoding.md R51, 43_memory_ops.md R103). -/

namespace Sys2Proof.Machine

/-- All sixteen registers, ascending. -/
def allRegs : List Reg := [0, 1, 2, 3, 4, 5, 6, 7, 8, 9, 10, 11, 12, 13, 14, 15]

/-- V0 to Vx inclusive, ascending (R101, R102). -/
def regsUpTo (x : Reg) : List Reg := allRegs.take (x.val + 1)

/-- The values of V0 to Vx, ascending (R101). -/
def State.valuesUpTo (s : State) (x : Reg) : List Byte := (regsUpTo x).map s.getV

/-- `V[x] & 0xF` as an index: the key of EX9E and EXA1, the digit of FX29 (R99, R108, R109). -/
def State.lowNibble (s : State) (x : Reg) : Reg := ((s.getV x).extractLsb' 0 4).toFin

/-- The effective address I + k, a natural number (R40, R103). -/
def State.dataAddr (s : State) (k : Nat) : Nat := s.i.toNat + k

/-- The address of digit d's glyph, as the u16 that FX29 writes to I (R32, R99). -/
def State.glyphAddr (s : State) (d : Reg) : Word := BitVec.ofNat 16 (s.params.fontBase.val + 5 * d.val)

/-- The three decimal digits of a byte: hundreds, tens, units (R100). -/
def decimalDigits (b : Byte) : List Byte :=
  [BitVec.ofNat 8 (b.toNat / 100), BitVec.ofNat 8 (b.toNat / 10 % 10), BitVec.ofNat 8 (b.toNat % 10)]

/-- The jump target NNN + V0 (R94). -/
def State.indexedTarget (s : State) (nnn : Word) : Word := BitVec.ofNat 16 (nnn.toNat + (s.getV 0).toNat)

/-- The least index of a set bit, if any bit is set (R112). -/
def leastKey (m : KeyVector) : Option Reg := allRegs.find? (fun k => m.getLsbD k.val)

end Sys2Proof.Machine
end

