-- ==== Sys2Proof/Machine/Flags.lean ====
section
/-! DEFINITION. The flag computations (41_arith_logic.md R84, R86), each from values read before any write, and the write
of VF. -/

namespace Sys2Proof.Machine

/-- A condition as the value VF takes. -/
def flagByte (c : Bool) : Byte := if c then 1#8 else 0#8

/-- Carry of 8XY4: a + b > 255 (R78, R84). -/
def carryFlag (a b : Byte) : Byte := flagByte (decide (a.toNat + b.toNat > 255))

/-- No-borrow of 8XY5 and 8XY7: minuend >= subtrahend (R79, R81, R84). -/
def noBorrowFlag (minuend subtrahend : Byte) : Byte := flagByte (decide (minuend.toNat ≥ subtrahend.toNat))

/-- The bit 8XY6 shifts out: the least-significant (R80). -/
def shiftedOutRight (a : Byte) : Byte := a &&& 1#8

/-- The bit 8XYE shifts out: the most-significant (R82). -/
def shiftedOutLeft (a : Byte) : Byte := (a >>> 7) &&& 1#8

/-- `VF <- b` (R18). -/
def State.setFlag (s : State) (b : Byte) : State := s.setV VF b

end Sys2Proof.Machine
end

