-- ==== Sys2Proof/Machine/ArithLogic.lean ====
section
/-! DEFINITION. Register transfer, arithmetic and logic (41_arith_logic.md R72 to R83). Statements take effect in the order
written (00_scope.md R11). -/

namespace Sys2Proof.Machine

/-- 6XNN (R72). -/
def execLdImm (x : Reg) (nn : Byte) (s : State) : Answer := .next (s.setV x nn).advance

/-- 7XNN: wraps, no carry (R73). -/
def execAddImm (x : Reg) (nn : Byte) (s : State) : Answer := .next (s.setV x (s.getV x + nn)).advance

/-- 8XY0 (R74). -/
def execLdReg (x y : Reg) (s : State) : Answer := .next (s.setV x (s.getV y)).advance

/-- 8XY1 (R75). -/
def execOrReg (x y : Reg) (s : State) : Answer := .next (s.setV x (s.getV x ||| s.getV y)).advance

/-- 8XY2 (R76). -/
def execAndReg (x y : Reg) (s : State) : Answer := .next (s.setV x (s.getV x &&& s.getV y)).advance

/-- 8XY3 (R77). -/
def execXorReg (x y : Reg) (s : State) : Answer := .next (s.setV x (s.getV x ^^^ s.getV y)).advance

/-- 8XY4: the sum first, then the carry into VF (R78, D9). -/
def execAddReg (x y : Reg) (s : State) : Answer :=
  let a := s.getV x
  let b := s.getV y
  .next ((s.setV x (a + b)).setFlag (carryFlag a b)).advance

/-- 8XY5: the difference first, then no-borrow into VF (R79, D9). -/
def execSubReg (x y : Reg) (s : State) : Answer :=
  let a := s.getV x
  let b := s.getV y
  .next ((s.setV x (a - b)).setFlag (noBorrowFlag a b)).advance

/-- 8XY6: the shifted-out bit into VF first, then the shift of Vx as it then stands; Vy is not read (R80, D9). -/
def execShr (x _y : Reg) (s : State) : Answer :=
  let flagged := s.setFlag (shiftedOutRight (s.getV x))
  .next (flagged.setV x (flagged.getV x >>> 1)).advance

/-- 8XY7: the reverse difference first, then no-borrow into VF (R81, D9). -/
def execSubn (x y : Reg) (s : State) : Answer :=
  let a := s.getV x
  let b := s.getV y
  .next ((s.setV x (b - a)).setFlag (noBorrowFlag b a)).advance

/-- 8XYE: the shifted-out bit into VF first, then the shift of Vx as it then stands; Vy is not read (R82, D9). -/
def execShl (x _y : Reg) (s : State) : Answer :=
  let flagged := s.setFlag (shiftedOutLeft (s.getV x))
  .next (flagged.setV x (flagged.getV x <<< 1)).advance

/-- Vx from a given draw, masked; the draw is taken whatever the mask (R83). -/
def State.takeDraw (s : State) (x : Reg) (nn r : Byte) : State :=
  { s.setV x (r &&& nn) with draws := s.draws + 1 }

/-- CXNN: a fresh free byte each time (R83, R85; log 4). -/
def execRnd (x : Reg) (nn : Byte) (s : State) : Answer :=
  .next (s.takeDraw x nn (Config.freeRandomByte s.draws)).advance

end Sys2Proof.Machine
end

