-- ==== Sys2Proof/Machine/Control.lean ====
section
/-! DEFINITION. Control transfer and skips (42_control.md R87 to R94). pc holds the address of the instruction being
executed; no target is checked when it is set (R96). -/

namespace Sys2Proof.Machine

/-- 1NNN (R87). -/
def execJp (nnn : Word) (s : State) : Answer := .next (s.setPc nnn)

/-- 2NNN: the call's own address is pushed (R88). -/
def execCall (nnn : Word) (s : State) : Answer :=
  match s.push s.pc with
  | some s' => .next (s'.setPc nnn)
  | none => .next (s.raise .stackOverflow)

/-- 00EE: to two past the popped address (R89). -/
def execRet (s : State) : Answer :=
  match s.pop with
  | some (w, s') => .next (s'.setPc (w + 2#16))
  | none => .next (s.raise .stackUnderflow)

/-- 3XNN (R90). -/
def execSeImm (x : Reg) (nn : Byte) (s : State) : Answer := .next (s.skipIf (decide (s.getV x = nn)))

/-- 4XNN (R91). -/
def execSneImm (x : Reg) (nn : Byte) (s : State) : Answer := .next (s.skipIf (decide (s.getV x ≠ nn)))

/-- 5XY0 (R92). -/
def execSeReg (x y : Reg) (s : State) : Answer := .next (s.skipIf (decide (s.getV x = s.getV y)))

/-- 9XY0 (R93). -/
def execSneReg (x y : Reg) (s : State) : Answer := .next (s.skipIf (decide (s.getV x ≠ s.getV y)))

/-- BNNN: the target is not masked (R94, D3). -/
def execJpV0 (nnn : Word) (s : State) : Answer := .next (s.setPc (s.indexedTarget nnn))

end Sys2Proof.Machine
end

