-- ==== Sys2Proof/Machine/Draw.lean ====
section
/-! DEFINITION. The framebuffer instructions (44_draw.md R104, R105). -/

namespace Sys2Proof.Machine

/-- 00E0: sets `needs_clear` only (R104, D19). -/
def execCls (s : State) : Answer :=
  .next (s.clearFb.setOut { s.out with needsClear := true }).advance

/-- The end of DXYN: `needs_redraw`, then pc (R105). -/
def State.endDraw (s : State) : State := (s.setOut { s.out with needsRedraw := true }).advance

/-- DXYN: the coordinates are read once, before VF is reset (R105, D10). -/
def execDrw (x y : Reg) (n : Nat) (s : State) : Answer :=
  (State.drawRows (s.getV x).toNat (s.getV y).toNat n 0 (s.setFlag 0#8)).finish State.endDraw

end Sys2Proof.Machine
end

