-- ==== Sys2Proof/Machine/MemoryOps.lean ====
section
/-! DEFINITION. The index register and memory transfers (43_memory_ops.md R97 to R102). I is not changed by an access
(R103, D7). -/

namespace Sys2Proof.Machine

/-- ANNN (R97). -/
def execLdI (nnn : Word) (s : State) : Answer := .next (s.setI nnn).advance

/-- FX1E: modulo 65536, VF not written (R98, D6). -/
def execAddI (x : Reg) (s : State) : Answer := .next (s.setI (s.i + (s.getV x).setWidth 16)).advance

/-- FX29: the glyph of the low nibble of Vx (R99). -/
def execLdF (x : Reg) (s : State) : Answer := .next (s.setI (s.glyphAddr (s.lowNibble x))).advance

/-- FX33: hundreds, tens, units at I, I + 1, I + 2 (R100). -/
def execBcd (x : Reg) (s : State) : Answer :=
  (State.storeBytes (decimalDigits (s.getV x)) (s.dataAddr 0) s).finish State.advance

/-- FX55: V0 to Vx at I upward (R101). -/
def execStRegs (x : Reg) (s : State) : Answer :=
  (State.storeBytes (s.valuesUpTo x) (s.dataAddr 0) s).finish State.advance

/-- FX65: V0 to Vx from I upward (R102). -/
def execLdRegs (x : Reg) (s : State) : Answer :=
  (State.loadRegs (regsUpTo x) (s.dataAddr 0) s).finish State.advance

end Sys2Proof.Machine
end

