-- ==== Sys2Proof/Machine/TimerKey.lean ====
section
/-! DEFINITION. Keys and timers (45_timer_key.md R108 to R114), with the waiting step of FX0A. -/

namespace Sys2Proof.Machine

/-- EX9E (R108). -/
def execSkp (x : Reg) (s : State) : Answer := .next (s.skipIf (s.key (s.lowNibble x)))

/-- EXA1 (R109). -/
def execSknp (x : Reg) (s : State) : Answer := .next (s.skipIf (!s.key (s.lowNibble x)))

/-- FX07: DT before this cycle's tick (R110). -/
def execLdVxDt (x : Reg) (s : State) : Answer := .next (s.setV x s.dt).advance

/-- FX0A: enter the wait with the current keys as the snapshot; pc is not changed (R111). -/
def execLdVxK (x : Reg) (s : State) : Answer := .next (s.setRun (.waitingForKey x s.keys))

/-- FX15 (R113). -/
def execLdDtVx (x : Reg) (s : State) : Answer := .next (s.setDt (s.getV x)).advance

/-- FX18 (R114). -/
def execLdStVx (x : Reg) (s : State) : Answer := .next (s.setSt (s.getV x)).advance

/-- The slots that went from released to pressed (R112). -/
def newlyPressed (prev now : KeyVector) : KeyVector := now &&& ~~~prev

/-- `WaitStep(x, prev, keys)` (R112): the least newly pressed key ends the wait, else the snapshot is refreshed. -/
def State.waitStep (x : Reg) (prev : KeyVector) (s : State) : State :=
  match leastKey (newlyPressed prev s.keys) with
  | some k => (s.setV x (BitVec.ofNat 8 k.val)).advance.setRun .running
  | none => s.setRun (.waitingForKey x s.keys)

end Sys2Proof.Machine
end

