-- ==== Sys2Proof/Machine/Step.lean ====
section
/-! DEFINITION. One call of `cycle` (40_cycle.md R60): by the run state, one instruction or one waiting step and then the
timer tick, or nothing in Halted. -/

namespace Sys2Proof.Machine

/-- Decode the fetched word and execute it, or raise UnknownOpcode (R63, R64). -/
def execWord (op : Word) (s : State) : Host.Outcome State Fault Refusal :=
  match decodeWord op with
  | .instr i => exec i s
  | .unknownOpcode w => .next (s.raise (.unknownOpcode w))

/-- Fetch, decode and execute, or raise what the fetch raised (R62 to R64). -/
def runInstruction (s : State) : Host.Outcome State Fault Refusal :=
  match s.fetch with
  | .word op => execWord op s
  | .stopped c => .next (s.raise c)

/-- One cycle (R60, R61, R66, R67). What it returns is `State.cycleResult` of the next state. -/
def step (s : State) : Host.Outcome State Fault Refusal :=
  match s.run with
  | .running => endCycleOf (runInstruction s.beginCycle)
  | .waitingForKey x prev => endCycleOf (.next (s.beginCycle.waitStep x prev))
  | .halted _ => .next s

/-- The state whose very next step fetches and runs the table word w of nbits bits (log 19). -/
def State.withFetchWord (s : State) (nbits w : Nat) : State := s.placeWord (BitVec.ofNat 16 (w % 2 ^ nbits))

end Sys2Proof.Machine
end

