-- ==== Sys2Proof/Machine/Driver.lean ====
section
/-! DEFINITION. The host's side of the interface: `load_program`, the key-slot writes, `cycle` and `reset` in the boot
order (60_exceptions.md R126 to R131, 70_reset_and_hazards.md R135 to R137). -/

namespace Sys2Proof.Machine

/-- MAX_IMAGE (R7, R136). -/
def maxImage : Nat := 3584

/-- Copy bytes to ascending addresses (R136). -/
def State.copyBytes : List Byte → Nat → State → State
  | [], _, s => s
  | b :: bs, a, s => State.copyBytes bs (a + 1) (s.poke a b)

/-- What `load_program` returns, with the state it leaves. -/
inductive LoadResult where
  | ok (s : State)
  | err (e : ErrorRecord) (s : State)
  deriving DecidableEq, Repr

/-- `load_program(bytes)` (R136): none is a loader that could not read the image; the length is checked before any byte is
copied; an error leaves the state as it was and records no pc (R30). -/
def State.loadProgram (image : Option (List Byte)) (s : State) : LoadResult :=
  match image with
  | none => .err ⟨.ioError, none⟩ s
  | some bytes =>
    if bytes.length > maxImage then .err ⟨.imageTooLarge bytes.length, none⟩ s
    else .ok (State.copyBytes bytes programStart s)

/-- Where the host stands in the boot order of R137. -/
inductive Phase where
  /-- `reset()` has been called and no image loaded. -/
  | afterReset
  /-- The image is loaded and no cycle has run. -/
  | loaded
  /-- `load_program` returned an error. -/
  | loadFailed
  /-- At least one cycle has run. -/
  | cycling
  deriving DecidableEq, Repr

/-- The engine and the host's place in the boot order. -/
structure Session where
  phase : Phase
  state : State
  deriving DecidableEq, Repr

/-- What the host may do to the engine, between cycles (R131). -/
inductive HostMove where
  | reset
  | loadProgram (image : Option (List Byte))
  | cycle
  | writeKey (k : Reg) (pressed : Bool)
  deriving DecidableEq, Repr

/-- What the engine gives back (R131). -/
inductive Reply where
  | nothing
  | loaded
  | loadError (e : ErrorRecord)
  | cycled (r : CycleResult)
  deriving DecidableEq, Repr

/-- The session after `load_program`. -/
def LoadResult.toSession : LoadResult → Session × Reply
  | .ok s => (⟨.loaded, s⟩, .loaded)
  | .err e s => (⟨.loadFailed, s⟩, .loadError e)

/-- `cycle(keys)` with the key table as it stands (R129, R131). -/
def hostCycle (s : State) : Host.Outcome (Session × Reply) Fault Refusal :=
  match step { s with keyInputs := [s.keys] } with
  | .next t => .next (⟨.cycling, t⟩, .cycled t.cycleResult)
  | .fault f => .fault f
  | .refused r => .refused r

/-- One move of the host. A move out of its place in the boot order is refused by name: the spec gives it no move (R131,
R137; log 18). -/
def hostMove (m : HostMove) (h : Session) : Host.Outcome (Session × Reply) Fault Refusal :=
  match m with
  | .reset => .next (⟨.afterReset, h.state.hostReset⟩, .nothing)
  | .writeKey k pressed => .next (⟨h.phase, h.state.writeKey k pressed⟩, .nothing)
  | .loadProgram image =>
    match h.phase with
    | .afterReset => .next (h.state.loadProgram image).toSession
    | .loaded => .refused .hostMoveOutOfOrder
    | .loadFailed => .refused .hostMoveOutOfOrder
    | .cycling => .refused .hostMoveOutOfOrder
  | .cycle =>
    match h.phase with
    | .loaded => hostCycle h.state
    | .cycling => hostCycle h.state
    | .afterReset => .refused .hostMoveOutOfOrder
    | .loadFailed => .refused .hostMoveOutOfOrder

/-- The session right after the first `reset()`; no run starts before it (R35, D32). -/
def Session.boot : Session := ⟨.afterReset, State.reset⟩

end Sys2Proof.Machine
end

