-- ==== Sys2Proof/Safety.lean ====
section
/-! DEFINITION. The terms claims are stated in: what a state keeps from another, what each instruction may write, raise
and set pc to, the invariant of the machine, and the end of a run as the observer defines it (70_reset_and_hazards.md
R145). -/

namespace Sys2Proof.Machine

/-! ## Frames -/

/-- The pieces of the state other than V and pc. `hostInputs` is the key queue with the cycle index (log 3). -/
inductive Piece where
  | index
  | delayTimer
  | soundTimer
  | callStack
  | memory
  | framebuffer
  | keyTable
  | runState
  | flags
  | params
  | hostInputs
  | drawIndex
  deriving DecidableEq, Repr

/-- The piece is the same in both states; memory byte by byte, the framebuffer cell by cell, the stack slot by slot. -/
def Piece.Same (s t : State) : Piece → Prop
  | .index => t.i = s.i
  | .delayTimer => t.dt = s.dt
  | .soundTimer => t.st = s.st
  | .callStack => t.sp = s.sp ∧ ∀ k, t.slot k = s.slot k
  | .memory => ∀ a, t.byteAt a = s.byteAt a
  | .framebuffer => ∀ k, t.getPixel k = s.getPixel k
  | .keyTable => t.keys = s.keys
  | .runState => t.run = s.run
  | .flags => t.out = s.out
  | .params => t.params = s.params
  | .hostInputs => t.keyInputs = s.keyInputs ∧ t.cycles = s.cycles
  | .drawIndex => t.draws = s.draws

/-- Every piece not in the list is unchanged. -/
def KeepsAllBut (ps : List Piece) (s t : State) : Prop := ∀ p : Piece, p ∉ ps → p.Same s t

/-- Every general register outside the set is unchanged. -/
def KeepsRegsBut (written : Reg → Prop) (s t : State) : Prop := ∀ r, ¬ written r → t.getV r = s.getV r

end Sys2Proof.Machine

namespace Sys2Proof

open Machine

/-! ## What each instruction may do -/

/-- The registers an instruction writes as its named destination (R17). FX0A writes its own only when its wait ends. -/
def Instr.namesDest : Instr → Reg → Bool
  | .ldImm x _, r => decide (r = x)
  | .addImm x _, r => decide (r = x)
  | .ldReg x _, r => decide (r = x)
  | .orReg x _, r => decide (r = x)
  | .andReg x _, r => decide (r = x)
  | .xorReg x _, r => decide (r = x)
  | .addReg x _, r => decide (r = x)
  | .subReg x _, r => decide (r = x)
  | .shr x _, r => decide (r = x)
  | .subn x _, r => decide (r = x)
  | .shl x _, r => decide (r = x)
  | .rnd x _, r => decide (r = x)
  | .ldVxDt x, r => decide (r = x)
  | .ldRegs x, r => decide (r.val ≤ x.val)
  | .cls, _ | .ret, _ | .jp _, _ | .call _, _ | .seImm _ _, _ | .sneImm _ _, _ | .seReg _ _, _ | .sneReg _ _, _
  | .ldI _, _ | .jpV0 _, _ | .drw _ _ _, _ | .skp _, _ | .sknp _, _ | .ldVxK _, _ | .ldDtVx _, _ | .ldStVx _, _
  | .addI _, _ | .ldF _, _ | .bcd _, _ | .stRegs _, _ => false

/-- The instructions that write VF as a side effect: "exactly 8XY4, 8XY5, 8XY7, 8XY6, 8XYE and DXYN" (R18, D8). -/
def Instr.writesFlag (i : Instr) : Bool :=
  match i with
  | .addReg _ _ => true
  | .subReg _ _ => true
  | .subn _ _ => true
  | .shr _ _ => true
  | .shl _ _ => true
  | .drw _ _ _ => true
  | .cls | .ret | .jp _ | .call _ | .seImm _ _ | .sneImm _ _ | .seReg _ _ | .ldImm _ _ | .addImm _ _ | .ldReg _ _
  | .orReg _ _ | .andReg _ _ | .xorReg _ _ | .sneReg _ _ | .ldI _ | .jpV0 _ | .rnd _ _ | .skp _ | .sknp _ | .ldVxDt _
  | .ldVxK _ | .ldDtVx _ | .ldStVx _ | .addI _ | .ldF _ | .bcd _ | .stRegs _ | .ldRegs _ => false

/-- The pieces an instruction that completes may change, besides V and pc (R20 to R27, R69). -/
def Instr.touches (i : Instr) : List Piece :=
  match i with
  | .cls => [.framebuffer, .flags]
  | .drw _ _ _ => [.framebuffer, .flags]
  | .ret => [.callStack]
  | .call _ => [.callStack]
  | .ldI _ => [.index]
  | .addI _ => [.index]
  | .ldF _ => [.index]
  | .bcd _ => [.memory]
  | .stRegs _ => [.memory]
  | .ldVxK _ => [.runState]
  | .ldDtVx _ => [.delayTimer]
  | .ldStVx _ => [.soundTimer]
  | .rnd _ _ => [.drawIndex]
  | .jp _ | .seImm _ _ | .sneImm _ _ | .seReg _ _ | .ldImm _ _ | .addImm _ _ | .ldReg _ _ | .orReg _ _ | .andReg _ _
  | .xorReg _ _ | .addReg _ _ | .subReg _ _ | .shr _ _ | .subn _ _ | .shl _ _ | .sneReg _ _ | .jpV0 _ | .skp _
  | .sknp _ | .ldVxDt _ | .ldRegs _ => []

/-- The error kind an instruction can raise once decoded, if any (R115, R117). -/
def Instr.mayRaise (i : Instr) : Option ErrorKind :=
  match i with
  | .call _ => some .stackOverflow
  | .ret => some .stackUnderflow
  | .bcd _ => some .outOfBounds
  | .stRegs _ => some .outOfBounds
  | .ldRegs _ => some .outOfBounds
  | .drw _ _ _ => some .outOfBounds
  | .cls | .jp _ | .seImm _ _ | .sneImm _ _ | .seReg _ _ | .ldImm _ _ | .addImm _ _ | .ldReg _ _ | .orReg _ _
  | .andReg _ _ | .xorReg _ _ | .addReg _ _ | .subReg _ _ | .shr _ _ | .subn _ _ | .shl _ _ | .sneReg _ _ | .ldI _
  | .jpV0 _ | .rnd _ _ | .skp _ | .sknp _ | .ldVxDt _ | .ldVxK _ | .ldDtVx _ | .ldStVx _ | .addI _ | .ldF _ => none

/-- pc after the next-instruction advance, or after a skip when the condition holds (R12, R64). -/
def Machine.State.pcSkipping (s : State) (c : Bool) : Nat := (s.pc.toNat + if c then 4 else 2) % 65536

/-- The value of pc, as a natural number, after an instruction that completes: the table of R64. The conditions of the skips
are those of R90 to R93, R108 and R109. -/
def Instr.pcAfter (i : Instr) (s : State) : Nat :=
  match i with
  | .jp nnn => nnn.toNat
  | .call nnn => nnn.toNat
  | .ret => ((s.stack.toList.getD (s.sp.val - 1) 0#16).toNat + 2) % 65536
  | .jpV0 nnn => (nnn.toNat + (s.getV 0).toNat) % 65536
  | .ldVxK _ => s.pc.toNat
  | .seImm x nn => s.pcSkipping (decide (s.getV x = nn))
  | .sneImm x nn => s.pcSkipping (decide (s.getV x ≠ nn))
  | .seReg x y => s.pcSkipping (decide (s.getV x = s.getV y))
  | .sneReg x y => s.pcSkipping (decide (s.getV x ≠ s.getV y))
  | .skp x => s.pcSkipping (s.keys.getLsbD ((s.getV x).toNat % 16))
  | .sknp x => s.pcSkipping (!s.keys.getLsbD ((s.getV x).toNat % 16))
  | .cls | .ldImm _ _ | .addImm _ _ | .ldReg _ _ | .orReg _ _ | .andReg _ _ | .xorReg _ _ | .addReg _ _ | .subReg _ _
  | .shr _ _ | .subn _ _ | .shl _ _ | .ldI _ | .rnd _ _ | .drw _ _ _ | .ldVxDt _ | .ldDtVx _ | .ldStVx _ | .addI _
  | .ldF _ | .bcd _ | .stRegs _ | .ldRegs _ => s.pcSkipping false

/-- The instructions whose own effect reads the key table (R122). -/
def Instr.readsKeys (i : Instr) : Bool :=
  match i with
  | .skp _ => true
  | .sknp _ => true
  | .ldVxK _ => true
  | .cls | .ret | .jp _ | .call _ | .seImm _ _ | .sneImm _ _ | .seReg _ _ | .ldImm _ _ | .addImm _ _ | .ldReg _ _
  | .orReg _ _ | .andReg _ _ | .xorReg _ _ | .addReg _ _ | .subReg _ _ | .shr _ _ | .subn _ _ | .shl _ _ | .sneReg _ _
  | .ldI _ | .jpV0 _ | .rnd _ _ | .drw _ _ _ | .ldVxDt _ | .ldDtVx _ | .ldStVx _ | .addI _ | .ldF _ | .bcd _
  | .stRegs _ | .ldRegs _ => false

end Sys2Proof

namespace Sys2Proof.Machine

/-! ## Waiting (R112) -/

/-- No key goes from released to pressed between a vector and the next, the first one compared with the snapshot. A key may
stay pressed and may be released. -/
def NoneNewlyPressed : KeyVector → List KeyVector → Prop
  | _, [] => True
  | prev, now :: later => (∀ k : Reg, now.getLsbD k.val = true → prev.getLsbD k.val = true) ∧ NoneNewlyPressed now later

/-! ## Sprites (R105, R106) -/

/-- Cell k is under a set bit of the first n rows of the sprite at I, drawn at (Vx, Vy) as they stand. -/
def SpriteCovers (s : State) (x y : Reg) (n : Nat) (k : Fin 2048) : Prop :=
  ∃ row < n, ∃ col < 8, (s.byteAt (s.dataAddr row)).getLsbD (7 - col) = true ∧
    cellIndex ((s.getV x).toNat + col) ((s.getV y).toNat + row) = k

/-- Some set bit of the first n rows lands on a cell that is 1 (R107). -/
def SpriteCollides (s : State) (x y : Reg) (n : Nat) : Prop :=
  ∃ k, SpriteCovers s x y n k ∧ s.getPixel k = 1#1

/-- The framebuffer and VF after drawing the first n rows: covered cells flipped, the others kept, VF the collision. -/
structure SpriteDrawn (s t : State) (x y : Reg) (n : Nat) : Prop where
  covered : ∀ k, SpriteCovers s x y n k → t.getPixel k = s.getPixel k ^^^ 1#1
  others : ∀ k, ¬ SpriteCovers s x y n k → t.getPixel k = s.getPixel k
  collision : SpriteCollides s x y n → t.getV VF = 1#8
  noCollision : ¬ SpriteCollides s x y n → t.getV VF = 0#8

/-! ## Errors -/

/-- `t` is `s` stopped by an error: Halted with the cause and the pc of the instruction, pc kept, the flags discarded (R68,
R118, D14). -/
structure StoppedBy (c : ErrorCause) (s t : State) : Prop where
  run : t.run = .halted ⟨c, some s.pc⟩
  pc : t.pc = s.pc
  out : t.out = Outputs.none

/-- An error has been raised (R28). -/
def State.isHalted (s : State) : Bool :=
  match s.run with
  | .running => false
  | .waitingForKey _ _ => false
  | .halted _ => true

/-- A cycle that returned Ok (R59). -/
def CompletesOk (s t : State) : Prop := step s = .next t ∧ t.isHalted = false

/-! ## The invariant -/

/-- Memory is in the canonical form of the model's representation (DESIGN CHOICE, log 20). -/
abbrev State.MemWf (s : State) : Prop := Memory.wf s.unlisted s.mem = true

/-- What holds at reset and after every cycle. -/
structure State.Inv (s : State) : Prop where
  /-- The model's own: its representation of memory is canonical, so equal memories are equal data (DESIGN CHOICE, log 20). -/
  memory : s.MemWf
  /-- pc never passes the largest BNNN target, so it never wraps (R94, D5). -/
  pcBound : s.pc.toNat ≤ 0x10FE
  /-- An occupied stack slot holds the address of a call, which was fetched (R24, R88). -/
  returns : ∀ k : Fin 16, k.val < s.sp.val → (s.slot k).toNat + 1 < memSize
  /-- While the engine waits, pc is at the FX0A that waits (R66, R111). -/
  waiting : ∀ x prev, s.run = .waitingForKey x prev → ∃ op, s.fetch = .word op ∧ decodeWord op = .instr (.ldVxK x)
  /-- A halted engine names the address it stopped at, and reports no flag (R68, D14; where the flags are kept is log 1). -/
  halted : ∀ e, s.run = .halted e → e.pc = some s.pc ∧ s.out = Outputs.none

/-! ## The end of a run (R145, R146, D24) -/

/-- How a run ended, as the observer sees it. -/
inductive RunEnd where
  /-- A cycle returned Err(e). -/
  | error (e : ErrorRecord)
  /-- A cycle would start at a jump to itself. -/
  | selfLoop
  /-- The observer's budget ran out: a hang, or a program still running. -/
  | notEnded
  /-- The model refused (it never does). -/
  | refused (r : Refusal)
  deriving DecidableEq, Repr

/-- Running, at a 1NNN that jumps to its own address (R145, item 2). -/
def State.atSelfLoop (s : State) : Bool :=
  match s.run, s.fetch with
  | .running, .word op => decide (decodeWord op = .instr (.jp s.pc))
  | _, _ => false

/-- The end of a run within a budget of cycles, with the state it ended in (R145). -/
def observeRun : Nat → State → RunEnd × State
  | 0, s => if s.atSelfLoop then (.selfLoop, s) else (.notEnded, s)
  | n + 1, s =>
    if s.atSelfLoop then (.selfLoop, s)
    else
      match step s with
      | .next t =>
        match t.run with
        | .halted e => (.error e, t)
        | .running => observeRun n t
        | .waitingForKey _ _ => observeRun n t
      | .fault f => nomatch f
      | .refused r => (.refused r, s)

end Sys2Proof.Machine
end

