-- ==== Sys2Proof/Certificates/Slice0/Obligations.lean ====
section
/-! DEFINITION. The statements for the provers, from the numbered rules of spec/. `D<n>` is a row of
spec/92_eei_decisions.md: a clause that names one states the spec's own choice where the source is silent. -/

open Sys2Proof Sys2Proof.Machine

/-! ## Encoding -/

/-- R50, R52: decoding the word of any well-formed instruction gives that instruction, every operand at every value. -/
def Obligations.DecodeOfEncodeIsIdentity : Prop :=
  ∀ i : Instr, i.WellFormed → decodeWord (encode i) = .instr i

/-- R52, R54: a word that decodes is the word of the instruction it decodes to, which is well-formed; so no two words decode
to one instruction. -/
def Obligations.EncodeOfDecodeIsIdentity : Prop :=
  ∀ (op : Word) (i : Instr), decodeWord op = .instr i → encode i = op ∧ i.WellFormed

/-- R53, R55: a word is rejected, by its own value, exactly when it matches no row of the opcode table. -/
def Obligations.RejectedExactlyWhenNoRowMatches : Prop :=
  ∀ op : Word, (decodeWord op = .unknownOpcode op ↔ ∀ r ∈ opcodeTable, ¬ r.Matches op) ∧
    ∀ w, decodeWord op = .unknownOpcode w → w = op

/-- R54: no word matches two rows of the table of 34. -/
def Obligations.AtMostOneRowMatches : Prop :=
  opcodeTable.length = 34 ∧
    ∀ op : Word, ∀ r ∈ opcodeTable, ∀ r' ∈ opcodeTable, r.Matches op → r'.Matches op → r = r'

/-- R49 to R53, sanity: words written out from the encodings, one of each family, and the unknown words R53 lists. -/
def Obligations.SpelledWordsDecode : Prop :=
  decodeWord 0x8124#16 = .instr (.addReg 1 2) ∧ decodeWord 0x2300#16 = .instr (.call 0x300#16) ∧
    decodeWord 0xF355#16 = .instr (.stRegs 3) ∧ decodeWord 0xD125#16 = .instr (.drw 1 2 5) ∧
    decodeWord 0xE19E#16 = .instr (.skp 1) ∧
    decodeWord 0x5121#16 = .unknownOpcode 0x5121#16 ∧ decodeWord 0x9AB3#16 = .unknownOpcode 0x9AB3#16 ∧
    decodeWord 0x8128#16 = .unknownOpcode 0x8128#16 ∧ decodeWord 0xE19F#16 = .unknownOpcode 0xE19F#16 ∧
    decodeWord 0xF0FF#16 = .unknownOpcode 0xF0FF#16 ∧ decodeWord 0x0000#16 = .unknownOpcode 0x0000#16 ∧
    decodeWord 0x0123#16 = .unknownOpcode 0x0123#16

/-! ## Memory -/

/-- R41, R43 (and the canonical form, log 20): an access succeeds exactly at the addresses 0 to 0xFFF, a store is what the
next read of its byte gives, no other byte changes, and the store keeps the canonical form. -/
def Obligations.ReadAfterStore : Prop :=
  ∀ (s : State) (a : Nat) (b : Byte), s.MemWf →
    ((∃ v, s.memRead a = some v) ↔ a ≤ 0xFFF) ∧ ((∃ t, s.memWrite a b = some t) ↔ a ≤ 0xFFF) ∧
    ∀ t, s.memWrite a b = some t → t.memRead a = some b ∧ t.MemWf ∧ ∀ c, c ≠ a → t.memRead c = s.memRead c

/-- R38, R62: the fetched word is the byte at pc times 256 plus the byte at pc + 1, whatever the parity of pc; past the end
of memory the fetch raises OutOfBounds at the first byte that does not exist (D3, D5). -/
def Obligations.FetchIsBigEndianAndBounded : Prop :=
  ∀ s : State,
    (s.pc.toNat ≤ 0xFFE → ∃ op, s.fetch = .word op ∧
      op.toNat = (s.byteAt s.pc.toNat).toNat * 256 + (s.byteAt (s.pc.toNat + 1)).toNat) ∧
    (s.pc.toNat = 0xFFF → s.fetch = .stopped (.outOfBounds 0x1000)) ∧
    (0xFFF < s.pc.toNat → s.fetch = .stopped (.outOfBounds s.pc.toNat))

/-! ## The cycle -/

/-- R60 to R64: a Running cycle whose word decodes to `i` is `exec i` between the start of the cycle and its end: at the start
the key vector is presented (the next one the host queued, else a free value, R129, D16, log 3) and the flags are false, and
nothing else changes; at the end comes one tick, but none after an error. -/
def Obligations.StepRunsTheDecodedInstruction : Prop :=
  ∀ (s : State) (op : Word) (i : Instr), s.run = .running → s.fetch = .word op → decodeWord op = .instr i →
    (s.beginCycle.out = Outputs.none ∧ KeepsRegsBut (fun _ => False) s s.beginCycle ∧ s.beginCycle.pc = s.pc ∧
      KeepsAllBut [.keyTable, .hostInputs, .flags] s s.beginCycle ∧ s.beginCycle.cycles = s.cycles + 1) ∧
    (∀ k ks, s.keyInputs = k :: ks → s.beginCycle.keys = k ∧ s.beginCycle.keyInputs = ks) ∧
    (s.keyInputs = [] → s.beginCycle.keys = Config.freeKeys s.cycles ∧ s.beginCycle.keyInputs = []) ∧
    ∀ t, exec i s.beginCycle = .next t → step s = .next (if t.isHalted then t else t.tick)

/-- R62, R63, R68, R117: a fetch out of memory or an unknown word stops the cycle with that error and the pc of the
instruction, before any state of the engine but the run state and the flags is written (D14). -/
def Obligations.FetchAndDecodeErrorsStopTheCycle : Prop :=
  ∀ (s : State) (c : ErrorCause), s.run = .running →
    (s.fetch = .stopped c ∨ ∃ op, s.fetch = .word op ∧ decodeWord op = .unknownOpcode op ∧ c = .unknownOpcode op) →
    ∃ t, step s = .next t ∧ StoppedBy c s t ∧ t.cycleResult = .err ⟨c, some s.pc⟩ ∧
      KeepsRegsBut (fun _ => False) s t ∧ KeepsAllBut [.runState, .flags, .keyTable, .hostInputs] s t

/-- R67, R119 (D13): a Halted engine stays exactly as it is for any number of cycles, each returning the same error. -/
def Obligations.HaltedIsAbsorbing : Prop :=
  ∀ (s : State) (e : ErrorRecord) (n : Nat), s.run = .halted e →
    Host.Core.run Sys2Proof.core n s = .next s ∧ s.cycleResult = .err e

/-- R66, R112: a waiting cycle fetches nothing. With no newly pressed key it refreshes the snapshot and stays; otherwise
the least newly pressed key goes to Vx, pc moves past the FX0A and the engine runs on (D12). Either way both timers tick,
and nothing else of the engine but the flags changes. -/
def Obligations.WaitingCycle : Prop :=
  ∀ (s : State) (x : Reg) (prev : KeyVector), s.run = .waitingForKey x prev →
    ∃ t, step s = .next t ∧
      ((∀ k : Reg, ¬ (s.beginCycle.key k = true ∧ prev.getLsbD k.val = false)) →
        t.run = .waitingForKey x s.beginCycle.keys ∧ t.pc = s.pc ∧ KeepsRegsBut (fun _ => False) s t) ∧
      (∀ k : Reg, s.beginCycle.key k = true → prev.getLsbD k.val = false →
        (∀ j < k, ¬ (s.beginCycle.key j = true ∧ prev.getLsbD j.val = false)) →
        t.run = .running ∧ t.pc = s.pc + 2#16 ∧ (t.getV x).toNat = k.val ∧ KeepsRegsBut (· = x) s t) ∧
      t.dt.toNat = s.dt.toNat - 1 ∧ t.st.toNat = s.st.toNat - 1 ∧
      (t.out.tone = true ↔ s.st = 1#8) ∧ t.out.needsClear = false ∧ t.out.needsRedraw = false ∧
      KeepsAllBut [.runState, .delayTimer, .soundTimer, .flags, .keyTable, .hostInputs] s t

/-- R66, R112, R134: waiting cycles whose queued key vectors (log 3) press no key anew, each compared with the one before and
the first with the snapshot, leave the engine waiting at the same pc with the last vector as its snapshot. A key may be held
and may be released in them. The timers are lower by their number, stopping at 0, and nothing else of the engine but the flags
and the key table changes. -/
def Obligations.WaitLastsWhileNoKeyIsPressed : Prop :=
  ∀ (s : State) (x : Reg) (prev : KeyVector) (presented rest : List KeyVector), s.run = .waitingForKey x prev →
    s.keyInputs = presented ++ rest → NoneNewlyPressed prev presented →
    ∃ t, Host.Core.run Sys2Proof.core presented.length s = .next t ∧
      t.run = .waitingForKey x (presented.getLastD prev) ∧ t.pc = s.pc ∧
      t.dt.toNat = s.dt.toNat - presented.length ∧ t.st.toNat = s.st.toNat - presented.length ∧ t.keyInputs = rest ∧
      KeepsRegsBut (fun _ => False) s t ∧
      KeepsAllBut [.runState, .delayTimer, .soundTimer, .flags, .keyTable, .hostInputs] s t

/-- R123: each timer counts down by one and stops at 0, the tone is set by the tick that finds ST at exactly 1 and by no
other; a cycle ends with one tick after the instruction or the waiting step, but a cycle that raised an error and a Halted
cycle have none. -/
def Obligations.TimerTickCountsDown : Prop :=
  ∀ s : State,
    s.tick.dt.toNat = s.dt.toNat - 1 ∧ s.tick.st.toNat = s.st.toNat - 1 ∧
    (s.tick.out.tone = true ↔ s.out.tone = true ∨ s.st = 1#8) ∧
    s.tick.out.needsRedraw = s.out.needsRedraw ∧ s.tick.out.needsClear = s.out.needsClear ∧ s.tick.pc = s.pc ∧
    KeepsRegsBut (fun _ => False) s s.tick ∧ KeepsAllBut [.delayTimer, .soundTimer, .flags] s s.tick ∧
    (s.run = .running → ∀ u, runInstruction s.beginCycle = .next u →
      step s = .next (if u.isHalted then u else u.tick)) ∧
    (∀ x prev, s.run = .waitingForKey x prev → step s = .next (s.beginCycle.waitStep x prev).tick) ∧
    (s.isHalted = true → step s = .next s)

/-- R60, R67, R68, R118: every instruction and every cycle ends in a next state: what the spec calls an error is a state it
describes, and nothing is refused. -/
def Obligations.EveryCycleEndsInANextState : Prop :=
  (∀ (i : Instr) (s : State), ∃ t, exec i s = .next t) ∧ ∀ s : State, ∃ t, step s = .next t

/-- R68, R118 (D14): a cycle that raises an error keeps pc, names it in the record, applies no tick, reports no flag and
leaves the call stack and I as they were. -/
def Obligations.ErrorCycleKeepsPcTimersAndStack : Prop :=
  ∀ (s t : State) (e : ErrorRecord), s.isHalted = false → step s = .next t → t.run = .halted e →
    e.pc = some s.pc ∧ t.pc = s.pc ∧ t.out = Outputs.none ∧ t.cycleResult = .err e ∧
      KeepsAllBut [.runState, .flags, .keyTable, .hostInputs, .memory, .framebuffer] s t

/-- R115, R117: the only errors a decoded instruction raises are StackOverflow by 2NNN, StackUnderflow by 00EE, and
OutOfBounds, at an address above 0xFFF, by FX33, FX55, FX65 and DXYN. -/
def Obligations.OnlyTheListedInstructionsRaise : Prop :=
  ∀ (i : Instr) (s t : State) (e : ErrorRecord), s.isHalted = false → exec i s = .next t → t.run = .halted e →
    i.mayRaise = some e.cause.kind ∧ (∀ a, e.cause = .outOfBounds a → 0xFFF < a) ∧
      ∀ n, e.cause ≠ .imageTooLarge n

/-! ## The machine as a whole -/

/-- Every cycle keeps the invariant. From the rules (R24, R66, R68, R88, R94, D3, D5, D14): pc is at most 0x10FE and so never
wraps, every occupied stack slot is the address of a fetched call, a waiting engine is at its FX0A, and a halted one names its
pc and reports no flag. The model's own choice, from no rule: its representation of memory is canonical (DESIGN CHOICE,
log 20). -/
def Obligations.StepKeepsTheInvariant : Prop :=
  ∀ s t : State, s.Inv → step s = .next t → t.Inv

/-- The invariant holds at reset, for any font parameters (R135); its clause on the canonical form of memory is the model's own
choice and follows from no rule (DESIGN CHOICE, log 20). -/
def Obligations.ResetMeetsTheInvariant : Prop :=
  State.reset.Inv ∧ ∀ p : Params, (State.resetWith p).Inv

/-- R17, R18 (D8): an instruction changes no register but its named destination and, for 8XY4, 8XY5, 8XY7, 8XY6, 8XYE and
DXYN only, VF. -/
def Obligations.OnlyNamedRegistersAndFlagChange : Prop :=
  ∀ (i : Instr) (s t : State), exec i s = .next t →
    KeepsRegsBut (fun r => i.namesDest r = true ∨ (i.writesFlag = true ∧ r = VF)) s t

/-- R20 to R27, R103, R125: an instruction that raises no error changes, besides V and pc, only the pieces the rules give it:
I by ANNN, FX1E, FX29; DT by FX15; ST by FX18; the stack by 2NNN, 00EE; memory by FX33, FX55; the framebuffer and the flags by
00E0, DXYN; the run state by FX0A; the key table and the parameters by none. -/
def Obligations.EachPieceHasItsWriters : Prop :=
  ∀ (i : Instr) (s t : State), s.isHalted = false → exec i s = .next t → t.isHalted = false →
    KeepsAllBut i.touches s t

/-- R64: pc after an instruction that raises no error is what the table of R64 says. -/
def Obligations.PcFollowsTheTable : Prop :=
  ∀ (i : Instr) (s t : State), s.isHalted = false → exec i s = .next t → t.isHalted = false →
    t.pc.toNat = i.pcAfter s

/-- R70, R122: only EX9E, EXA1 and FX0A can tell two key tables apart: any other instruction does the same under both. -/
def Obligations.OnlyKeyInstructionsSeeTheKeys : Prop :=
  ∀ (i : Instr) (s t : State) (ks : KeyVector), i.readsKeys = false → exec i s = .next t →
    exec i { s with keys := ks } = .next { t with keys := ks }

/-- R48, R141: after FX55 and after FX33 every fetch that meets a stored byte gets it, with nothing in between: the words
V[k], V[k + 1] at I + k, the words of two digits at I and I + 1, and the words that meet the first or the last stored byte only,
whose other byte is as before. -/
def Obligations.StoredBytesAreFetched : Prop :=
  (∀ (x : Reg) (s : State), s.MemWf → s.dataAddr x.val ≤ 0xFFF → ∃ t, exec (.stRegs x) s = .next t ∧
    (∀ (w : Word) (k k' : Reg), k'.val = k.val + 1 → k' ≤ x → w.toNat = s.dataAddr k.val →
      (t.setPc w).fetch = .word (wordOfBytes (s.getV k) (s.getV k'))) ∧
    (∀ w : Word, w.toNat + 1 = s.dataAddr 0 → (t.setPc w).fetch = .word (wordOfBytes (s.byteAt w.toNat) (s.getV 0))) ∧
    ∀ w : Word, w.toNat = s.dataAddr x.val → w.toNat < 0xFFF →
      (t.setPc w).fetch = .word (wordOfBytes (s.getV x) (s.byteAt (w.toNat + 1)))) ∧
  ∀ (x : Reg) (s : State), s.MemWf → s.dataAddr 2 ≤ 0xFFF → ∃ (t : State) (hundreds tens units : Byte),
    exec (.bcd x) s = .next t ∧ hundreds.toNat = (s.getV x).toNat / 100 ∧
    tens.toNat = (s.getV x).toNat / 10 % 10 ∧ units.toNat = (s.getV x).toNat % 10 ∧
    (∀ w : Word, w.toNat = s.dataAddr 0 → (t.setPc w).fetch = .word (wordOfBytes hundreds tens)) ∧
    (∀ w : Word, w.toNat = s.dataAddr 1 → (t.setPc w).fetch = .word (wordOfBytes tens units)) ∧
    (∀ w : Word, w.toNat + 1 = s.dataAddr 0 → (t.setPc w).fetch = .word (wordOfBytes (s.byteAt w.toNat) hundreds)) ∧
    ∀ w : Word, w.toNat = s.dataAddr 2 → w.toNat < 0xFFF →
      (t.setPc w).fetch = .word (wordOfBytes units (s.byteAt (w.toNat + 1)))

/-! ## Reset and loading -/

/-- R135: what `reset()` leaves: every register, timer and slot 0, the stack empty, the cells and keys clear, I = 0,
pc = 0x200, memory 0 but for the font at FONT_BASE, running (D32); for any font parameters, the default ones at 0x050. -/
def Obligations.ResetLeavesTheSpecifiedState : Prop :=
  State.reset.params.fontBase.val = 0x050 ∧
  ∀ p : Params, ∀ s : State, s = State.resetWith p →
    (∀ r, s.getV r = 0#8) ∧ s.pc = 0x200#16 ∧ s.i = 0#16 ∧ s.dt = 0#8 ∧ s.st = 0#8 ∧ s.sp.val = 0 ∧
    (∀ k, s.slot k = 0#16) ∧ (∀ k, s.getPixel k = 0#1) ∧ (∀ k, s.key k = false) ∧ s.run = .running ∧
    (∀ j : Fin 80, s.byteAt (p.fontBase.val + j.val) = p.fontTable[j]) ∧
    (∀ a, a < p.fontBase.val ∨ p.fontBase.val + 80 ≤ a → s.byteAt a = 0#8)

/-- R119, R135: the host's `reset()` takes any state, a Halted one too, to the reset state, whatever it held; the model's own
input queue and free-value indices go on (log 3, log 4). -/
def Obligations.HostResetReinitialises : Prop :=
  ∀ s : State, s.hostReset.run = .running ∧ s.hostReset.pc = 0x200#16 ∧
    KeepsRegsBut (fun _ => False) (State.resetWith s.params) s.hostReset ∧
    KeepsAllBut [.hostInputs, .drawIndex] (State.resetWith s.params) s.hostReset ∧
    KeepsAllBut [.index, .delayTimer, .soundTimer, .callStack, .memory, .framebuffer, .keyTable, .runState, .flags]
      s s.hostReset

/-- R136 (D22, the check before the copy): a loader failure is IOError, an image over 3584 bytes OutOfBounds with its length,
and both leave the state as it was; any other image is copied byte for byte from 0x200 and nothing else changes. -/
def Obligations.LoadProgramCopiesOrRejects : Prop :=
  (∀ s : State, s.loadProgram none = .err ⟨.ioError, none⟩ s) ∧
  ∀ (s : State) (bytes : List Byte), s.MemWf →
    (3584 < bytes.length → s.loadProgram (some bytes) = .err ⟨.imageTooLarge bytes.length, none⟩ s) ∧
    (bytes.length ≤ 3584 → ∃ t, s.loadProgram (some bytes) = .ok t ∧
      (∀ j (h : j < bytes.length), t.memRead (0x200 + j) = some bytes[j]) ∧
      (∀ a, a < 0x200 ∨ 0x200 + bytes.length ≤ a → t.byteAt a = s.byteAt a) ∧
      t.pc = s.pc ∧ KeepsRegsBut (fun _ => False) s t ∧ KeepsAllBut [.memory] s t)

/-- R136, R138 (95_test_vectors.md L1-5): after reset and any accepted load the font is in place, independent of the image. -/
def Obligations.FontIsInPlaceAfterLoading : Prop :=
  ∀ (p : Params) (image : Option (List Byte)) (t : State), (State.resetWith p).loadProgram image = .ok t →
    ∀ j : Fin 80, t.byteAt (p.fontBase.val + j.val) = p.fontTable[j]

/-! ## Register transfer, arithmetic and logic -/

/-- R72: every word of class 6 is 6XNN; 6XNN completes with V[X] = NN, pc + 2 and nothing else changed, VF included unless
X = F. -/
def Obligations.LoadImmediate : Prop :=
  (∀ op : Word, classOf op = 0x6 → decodeWord op = .instr (.ldImm (fieldX op) (fieldNN op))) ∧
  ∀ (x : Reg) (nn : Byte) (s : State), ∃ t, exec (.ldImm x nn) s = .next t ∧
    t.getV x = nn ∧ t.pc = s.pc + 2#16 ∧ KeepsRegsBut (· = x) s t ∧ KeepsAllBut [] s t

/-- R74: every word of class 8 with N = 0 is 8XY0; 8XY0 completes with V[X] = V[Y], pc + 2 and nothing else changed. -/
def Obligations.CopyRegister : Prop :=
  (∀ op : Word, classOf op = 0x8 → fieldN op = 0 → decodeWord op = .instr (.ldReg (fieldX op) (fieldY op))) ∧
  ∀ (x y : Reg) (s : State), ∃ t, exec (.ldReg x y) s = .next t ∧
    t.getV x = s.getV y ∧ t.pc = s.pc + 2#16 ∧ KeepsRegsBut (· = x) s t ∧ KeepsAllBut [] s t

/-- R73: 7XNN completes with V[X] = (V[X] + NN) mod 256 and no carry recorded: VF is unchanged unless X = F (D8). -/
def Obligations.AddImmediateWraps : Prop :=
  ∀ (x : Reg) (nn : Byte) (s : State), ∃ t, exec (.addImm x nn) s = .next t ∧
    (t.getV x).toNat = ((s.getV x).toNat + nn.toNat) % 256 ∧ t.pc = s.pc + 2#16 ∧ KeepsRegsBut (· = x) s t ∧
    KeepsAllBut [] s t

/-- R75, R76, R77: 8XY1, 8XY2, 8XY3 complete with the bitwise OR, AND, XOR in V[X], bit by bit; VF is unchanged unless X = F
(D8). -/
def Obligations.BitwiseInstructions : Prop :=
  ∀ (x y : Reg) (s : State),
    (∃ t, exec (.orReg x y) s = .next t ∧ t.pc = s.pc + 2#16 ∧ KeepsRegsBut (· = x) s t ∧ KeepsAllBut [] s t ∧
      ∀ b, (t.getV x).getLsbD b = ((s.getV x).getLsbD b || (s.getV y).getLsbD b)) ∧
    (∃ t, exec (.andReg x y) s = .next t ∧ t.pc = s.pc + 2#16 ∧ KeepsRegsBut (· = x) s t ∧ KeepsAllBut [] s t ∧
      ∀ b, (t.getV x).getLsbD b = ((s.getV x).getLsbD b && (s.getV y).getLsbD b)) ∧
    (∃ t, exec (.xorReg x y) s = .next t ∧ t.pc = s.pc + 2#16 ∧ KeepsRegsBut (· = x) s t ∧ KeepsAllBut [] s t ∧
      ∀ b, (t.getV x).getLsbD b = ((s.getV x).getLsbD b != (s.getV y).getLsbD b))

/-- R78: 8XY4 completes with the sum modulo 256 in V[X] (X not F) and VF = 1 iff the sum of the old operands exceeds 255; for
X = F the flag is written last and wins (D9). -/
def Obligations.AddSetsCarry : Prop :=
  ∀ (x y : Reg) (s : State), ∃ t, exec (.addReg x y) s = .next t ∧
    (t.getV VF = if (s.getV x).toNat + (s.getV y).toNat > 255 then 1#8 else 0#8) ∧
    (x ≠ VF → (t.getV x).toNat = ((s.getV x).toNat + (s.getV y).toNat) % 256) ∧
    t.pc = s.pc + 2#16 ∧ KeepsRegsBut (fun r => r = x ∨ r = VF) s t ∧ KeepsAllBut [] s t

/-- R79, R81: 8XY5 and 8XY7 complete with the difference modulo 256 in V[X] (X not F) and VF = 1 iff the minuend is at least
the subtrahend, both read before any write; for X = F the flag wins (D9). -/
def Obligations.SubtractSetsNoBorrow : Prop :=
  ∀ (x y : Reg) (s : State),
    (∃ t, exec (.subReg x y) s = .next t ∧
      (t.getV VF = if (s.getV x).toNat ≥ (s.getV y).toNat then 1#8 else 0#8) ∧
      (x ≠ VF → ((t.getV x).toNat : Int) = ((s.getV x).toNat - (s.getV y).toNat : Int) % 256) ∧
      t.pc = s.pc + 2#16 ∧ KeepsRegsBut (fun r => r = x ∨ r = VF) s t ∧ KeepsAllBut [] s t) ∧
    (∃ t, exec (.subn x y) s = .next t ∧
      (t.getV VF = if (s.getV y).toNat ≥ (s.getV x).toNat then 1#8 else 0#8) ∧
      (x ≠ VF → ((t.getV x).toNat : Int) = ((s.getV y).toNat - (s.getV x).toNat : Int) % 256) ∧
      t.pc = s.pc + 2#16 ∧ KeepsRegsBut (fun r => r = x ∨ r = VF) s t ∧ KeepsAllBut [] s t)

/-- R80, R82: 8XY6 and 8XYE complete with Vx shifted by one and VF the bit shifted out, Vy not read; for X = F the shift acts
on the flag just written, so VF ends as 0 (8XY6) or twice the old bit 7 (8XYE) (D9). -/
def Obligations.ShiftsSetTheBitShiftedOut : Prop :=
  ∀ (x y : Reg) (s : State),
    (∃ t, exec (.shr x y) s = .next t ∧
      (x ≠ VF → (t.getV x).toNat = (s.getV x).toNat / 2 ∧ (t.getV VF).toNat = (s.getV x).toNat % 2) ∧
      (x = VF → t.getV VF = 0#8) ∧
      t.pc = s.pc + 2#16 ∧ KeepsRegsBut (fun r => r = x ∨ r = VF) s t ∧ KeepsAllBut [] s t) ∧
    (∃ t, exec (.shl x y) s = .next t ∧
      (x ≠ VF → (t.getV x).toNat = (s.getV x).toNat * 2 % 256 ∧ (t.getV VF).toNat = (s.getV x).toNat / 128) ∧
      (x = VF → (t.getV VF).toNat = (s.getV x).toNat / 128 * 2) ∧
      t.pc = s.pc + 2#16 ∧ KeepsRegsBut (fun r => r = x ∨ r = VF) s t ∧ KeepsAllBut [] s t)

/-- R83, R85: CXNN completes for any draw; V[X] is the draw masked by NN bit by bit, and the next execution takes the next
draw. The draw is the free value of log 4: this holds whatever it is. -/
def Obligations.RandomByteIsMasked : Prop :=
  ∀ (x : Reg) (nn : Byte) (s : State), ∃ t, exec (.rnd x nn) s = .next t ∧
    (∀ b, (t.getV x).getLsbD b = ((Config.freeRandomByte s.draws).getLsbD b && nn.getLsbD b)) ∧
    t.draws = s.draws + 1 ∧ t.pc = s.pc + 2#16 ∧ KeepsRegsBut (· = x) s t ∧ KeepsAllBut [.drawIndex] s t

/-! ## Control -/

/-- R87, R94: 1NNN and BNNN complete with pc the target, no target checked or masked (D3), and nothing else changed. -/
def Obligations.JumpsSetPc : Prop :=
  ∀ (nnn : Word) (s : State),
    (∃ t, exec (.jp nnn) s = .next t ∧ t.pc = nnn ∧ KeepsRegsBut (fun _ => False) s t ∧ KeepsAllBut [] s t) ∧
    (AddrFits nnn → ∃ t, exec (.jpV0 nnn) s = .next t ∧ t.pc.toNat = nnn.toNat + (s.getV 0).toNat ∧
      KeepsRegsBut (fun _ => False) s t ∧ KeepsAllBut [] s t)

/-- R88: 2NNN completes when a slot is free: the call's own address goes to Stack[SP], SP rises by one, pc is the target, and
nothing else changes. -/
def Obligations.CallPushesItsOwnAddress : Prop :=
  ∀ (nnn : Word) (s : State) (k : Fin 16), s.sp.val = k.val → ∃ t, exec (.call nnn) s = .next t ∧
    t.slot k = s.pc ∧ (∀ j, j ≠ k → t.slot j = s.slot j) ∧ t.sp.val = k.val + 1 ∧ t.pc = nnn ∧
    KeepsRegsBut (fun _ => False) s t ∧ KeepsAllBut [.callStack] s t

/-- R89: 00EE completes when the stack is not empty: pc is the popped address plus 2, SP falls by one, the slot is not cleared,
and nothing else changes. -/
def Obligations.ReturnGoesPastTheCall : Prop :=
  ∀ (s : State) (k : Fin 16), s.sp.val = k.val + 1 → ∃ t, exec .ret s = .next t ∧
    t.pc = s.slot k + 2#16 ∧ t.sp.val = k.val ∧ (∀ j, t.slot j = s.slot j) ∧
    KeepsRegsBut (fun _ => False) s t ∧ KeepsAllBut [.callStack] s t

/-- R88, R89, R115: 2NNN with 16 entries raises StackOverflow, 00EE with none StackUnderflow, before any write. -/
def Obligations.StackErrorsComeBeforeAnyWrite : Prop :=
  (∀ (nnn : Word) (s : State), s.sp.val = 16 → ∃ t, exec (.call nnn) s = .next t ∧ StoppedBy .stackOverflow s t ∧
    KeepsRegsBut (fun _ => False) s t ∧ KeepsAllBut [.runState, .flags] s t) ∧
  (∀ s : State, s.sp.val = 0 → ∃ t, exec .ret s = .next t ∧ StoppedBy .stackUnderflow s t ∧
    KeepsRegsBut (fun _ => False) s t ∧ KeepsAllBut [.runState, .flags] s t)

/-- R88, R89: a call followed by a return leaves pc at the call's address + 2 and SP as it was. -/
def Obligations.CallThenReturn : Prop :=
  ∀ (nnn : Word) (s : State), s.sp.val < 16 → ∃ t u, exec (.call nnn) s = .next t ∧ exec .ret t = .next u ∧
    u.pc = s.pc + 2#16 ∧ u.sp = s.sp ∧ (∀ j : Fin 16, j.val ≠ s.sp.val → u.slot j = s.slot j) ∧
    KeepsRegsBut (fun _ => False) s u ∧ KeepsAllBut [.callStack] s u

/-- R90, R91: the words of class 3 are 3XNN, those of class 4 are 4XNN; 3XNN skips when V[X] = NN, 4XNN when V[X] differs;
nothing but pc changes. -/
def Obligations.SkipOnImmediate : Prop :=
  (∀ op : Word, (classOf op = 0x3 → decodeWord op = .instr (.seImm (fieldX op) (fieldNN op))) ∧
    (classOf op = 0x4 → decodeWord op = .instr (.sneImm (fieldX op) (fieldNN op)))) ∧
  ∀ (x : Reg) (nn : Byte) (s : State),
    (∃ t, exec (.seImm x nn) s = .next t ∧ (s.getV x = nn → t.pc = s.pc + 4#16) ∧
      (s.getV x ≠ nn → t.pc = s.pc + 2#16) ∧ KeepsRegsBut (fun _ => False) s t ∧ KeepsAllBut [] s t) ∧
    (∃ t, exec (.sneImm x nn) s = .next t ∧ (s.getV x ≠ nn → t.pc = s.pc + 4#16) ∧
      (s.getV x = nn → t.pc = s.pc + 2#16) ∧ KeepsRegsBut (fun _ => False) s t ∧ KeepsAllBut [] s t)

/-- R92, R93: 5XY0 skips when V[X] = V[Y], 9XY0 when they differ; nothing but pc changes. A word of class 5 or 9 is one of
them when its low nibble is 0, and is unknown otherwise. -/
def Obligations.SkipOnRegister : Prop :=
  (∀ (x y : Reg) (s : State),
    (∃ t, exec (.seReg x y) s = .next t ∧ (s.getV x = s.getV y → t.pc = s.pc + 4#16) ∧
      (s.getV x ≠ s.getV y → t.pc = s.pc + 2#16) ∧ KeepsRegsBut (fun _ => False) s t ∧ KeepsAllBut [] s t) ∧
    (∃ t, exec (.sneReg x y) s = .next t ∧ (s.getV x ≠ s.getV y → t.pc = s.pc + 4#16) ∧
      (s.getV x = s.getV y → t.pc = s.pc + 2#16) ∧ KeepsRegsBut (fun _ => False) s t ∧ KeepsAllBut [] s t)) ∧
  ∀ op : Word,
    (classOf op = 0x5 → fieldN op = 0 → decodeWord op = .instr (.seReg (fieldX op) (fieldY op))) ∧
    (classOf op = 0x9 → fieldN op = 0 → decodeWord op = .instr (.sneReg (fieldX op) (fieldY op))) ∧
    ((classOf op = 0x5 ∨ classOf op = 0x9) → fieldN op ≠ 0 → decodeWord op = .unknownOpcode op)

/-! ## Index register and memory transfer -/

/-- R97: every word of class A is ANNN, its NNN below 0x1000; ANNN completes with I = NNN, so the high four bits of I become
0, and nothing but pc changes besides. -/
def Obligations.LoadIndex : Prop :=
  (∀ op : Word, classOf op = 0xA → decodeWord op = .instr (.ldI (fieldNNN op)) ∧ AddrFits (fieldNNN op)) ∧
  ∀ (nnn : Word) (s : State), ∃ t, exec (.ldI nnn) s = .next t ∧ t.i = nnn ∧ (AddrFits nnn → t.i.toNat / 0x1000 = 0) ∧
    t.pc = s.pc + 2#16 ∧ KeepsRegsBut (fun _ => False) s t ∧ KeepsAllBut [.index] s t

/-- R98, R99: FX1E completes with I = (I + Vx) mod 65536, VF not written (D6); FX29 with I the glyph address of the low nibble
of Vx, FONT_BASE + 5 d, for any FONT_BASE (D1). -/
def Obligations.AddIndexAndGlyphAddress : Prop :=
  ∀ (x : Reg) (s : State),
    (∃ t, exec (.addI x) s = .next t ∧ t.i.toNat = (s.i.toNat + (s.getV x).toNat) % 65536 ∧ t.pc = s.pc + 2#16 ∧
      KeepsRegsBut (fun _ => False) s t ∧ KeepsAllBut [.index] s t) ∧
    (∃ t, exec (.ldF x) s = .next t ∧ t.i.toNat = s.params.fontBase.val + 5 * ((s.getV x).toNat % 16) ∧
      t.pc = s.pc + 2#16 ∧ KeepsRegsBut (fun _ => False) s t ∧ KeepsAllBut [.index] s t)

/-- R100: FX33 completes when I + 2 is in memory: hundreds, tens, units at I, I + 1, I + 2, every other byte and I unchanged. -/
def Obligations.BcdStoresThreeDigits : Prop :=
  ∀ (x : Reg) (s : State), s.MemWf → s.dataAddr 2 ≤ 0xFFF → ∃ t, exec (.bcd x) s = .next t ∧
    (t.byteAt (s.dataAddr 0)).toNat = (s.getV x).toNat / 100 ∧
    (t.byteAt (s.dataAddr 1)).toNat = (s.getV x).toNat / 10 % 10 ∧
    (t.byteAt (s.dataAddr 2)).toNat = (s.getV x).toNat % 10 ∧
    (∀ a, a < s.dataAddr 0 ∨ s.dataAddr 2 < a → t.byteAt a = s.byteAt a) ∧
    t.pc = s.pc + 2#16 ∧ KeepsRegsBut (fun _ => False) s t ∧ KeepsAllBut [.memory] s t

/-- R100 (D11): where I + 2 is past memory, FX33 raises OutOfBounds at the first byte that does not exist; the digits before it
stay written and no other byte changes. -/
def Obligations.BcdStopsPastMemory : Prop :=
  ∀ (x : Reg) (s : State), s.MemWf → 0xFFF < s.dataAddr 2 → ∃ t, exec (.bcd x) s = .next t ∧
    StoppedBy (.outOfBounds (max (s.dataAddr 0) 0x1000)) s t ∧
    (s.dataAddr 0 ≤ 0xFFF → (t.byteAt (s.dataAddr 0)).toNat = (s.getV x).toNat / 100) ∧
    (s.dataAddr 1 ≤ 0xFFF → (t.byteAt (s.dataAddr 1)).toNat = (s.getV x).toNat / 10 % 10) ∧
    (∀ a, a < s.dataAddr 0 ∨ 0xFFF < a → t.byteAt a = s.byteAt a) ∧
    KeepsRegsBut (fun _ => False) s t ∧ KeepsAllBut [.memory, .runState, .flags] s t

/-- R101: FX55 completes when I + X is in memory: V[k] at I + k for each k up to X, every other byte and I unchanged. -/
def Obligations.StoreRegisters : Prop :=
  ∀ (x : Reg) (s : State), s.MemWf → s.dataAddr x.val ≤ 0xFFF → ∃ t, exec (.stRegs x) s = .next t ∧
    (∀ k : Reg, k ≤ x → t.byteAt (s.dataAddr k.val) = s.getV k) ∧
    (∀ a, a < s.dataAddr 0 ∨ s.dataAddr x.val < a → t.byteAt a = s.byteAt a) ∧
    t.pc = s.pc + 2#16 ∧ KeepsRegsBut (fun _ => False) s t ∧ KeepsAllBut [.memory] s t

/-- R101, R117 (D11): where I + X is past memory, FX55 raises OutOfBounds at the first address that does not exist, after the
bytes before it; no other byte changes. -/
def Obligations.StoreRegistersStopsPastMemory : Prop :=
  ∀ (x : Reg) (s : State), s.MemWf → 0xFFF < s.dataAddr x.val → ∃ t, exec (.stRegs x) s = .next t ∧
    StoppedBy (.outOfBounds (max (s.dataAddr 0) 0x1000)) s t ∧
    (∀ k : Reg, s.dataAddr k.val ≤ 0xFFF → t.byteAt (s.dataAddr k.val) = s.getV k) ∧
    (∀ a, a < s.dataAddr 0 ∨ 0xFFF < a → t.byteAt a = s.byteAt a) ∧
    KeepsRegsBut (fun _ => False) s t ∧ KeepsAllBut [.memory, .runState, .flags] s t

/-- R102: FX65 completes when I + X is in memory: V[k] from I + k for each k up to X, the other registers, I and memory
unchanged. -/
def Obligations.LoadRegisters : Prop :=
  ∀ (x : Reg) (s : State), s.dataAddr x.val ≤ 0xFFF → ∃ t, exec (.ldRegs x) s = .next t ∧
    (∀ k : Reg, k ≤ x → t.getV k = s.byteAt (s.dataAddr k.val)) ∧
    t.pc = s.pc + 2#16 ∧ KeepsRegsBut (· ≤ x) s t ∧ KeepsAllBut [] s t

/-- R102 (D11): where I + X is past memory, FX65 raises OutOfBounds at the first address that does not exist, after loading the
registers before it. -/
def Obligations.LoadRegistersStopsPastMemory : Prop :=
  ∀ (x : Reg) (s : State), 0xFFF < s.dataAddr x.val → ∃ t, exec (.ldRegs x) s = .next t ∧
    StoppedBy (.outOfBounds (max (s.dataAddr 0) 0x1000)) s t ∧
    (∀ k : Reg, s.dataAddr k.val ≤ 0xFFF → t.getV k = s.byteAt (s.dataAddr k.val)) ∧
    KeepsRegsBut (fun k => s.dataAddr k.val ≤ 0xFFF) s t ∧ KeepsAllBut [.runState, .flags] s t

/-! ## Framebuffer -/

/-- R104: 00E0 completes with every cell 0 and `needs_clear` set; `needs_redraw`, the tone and VF are not touched (D19). -/
def Obligations.ClearScreen : Prop :=
  ∀ s : State, ∃ t, exec .cls s = .next t ∧ (∀ k, t.getPixel k = 0#1) ∧ t.out = { s.out with needsClear := true } ∧
    t.pc = s.pc + 2#16 ∧ KeepsRegsBut (fun _ => False) s t ∧ KeepsAllBut [.framebuffer, .flags] s t

/-- R105, R106, R107: DXYN whose sprite bytes are in memory completes: exactly the cells under set bits, at the coordinates of
Vx and Vy from before VF is reset (D10) and wrapping over the linear index (D30), are flipped, VF tells whether one of them
was 1, and `needs_redraw` is set. -/
def Obligations.DrawSprite : Prop :=
  ∀ (x y : Reg) (n : Nat) (s : State), CountFits n → (n = 0 ∨ s.dataAddr (n - 1) ≤ 0xFFF) →
    ∃ t, exec (.drw x y n) s = .next t ∧ SpriteDrawn s t x y n ∧ t.out = { s.out with needsRedraw := true } ∧
      t.pc = s.pc + 2#16 ∧ KeepsRegsBut (· = VF) s t ∧ KeepsAllBut [.framebuffer, .flags] s t

/-- R105 (D11): where a sprite byte is past memory, DXYN raises OutOfBounds at the first such address; the rows before it are
drawn and VF holds their collision. -/
def Obligations.DrawStopsPastMemory : Prop :=
  ∀ (x y : Reg) (n : Nat) (s : State), CountFits n → 0 < n → 0xFFF < s.dataAddr (n - 1) →
    ∃ t, exec (.drw x y n) s = .next t ∧ StoppedBy (.outOfBounds (max (s.dataAddr 0) 0x1000)) s t ∧
      SpriteDrawn s t x y (0x1000 - s.dataAddr 0) ∧ KeepsRegsBut (· = VF) s t ∧
      KeepsAllBut [.framebuffer, .runState, .flags] s t

/-- R105 to R107 (95_test_vectors.md P3): drawing the same sprite twice, with neither coordinate in VF, restores every cell. -/
def Obligations.DrawingTwiceRestores : Prop :=
  ∀ (x y : Reg) (n : Nat) (s : State), CountFits n → (n = 0 ∨ s.dataAddr (n - 1) ≤ 0xFFF) → x ≠ VF → y ≠ VF →
    ∃ t u, exec (.drw x y n) s = .next t ∧ exec (.drw x y n) t = .next u ∧
      (∀ k, u.getPixel k = s.getPixel k) ∧
      (u.getV VF = 1#8 ↔ ∃ k, SpriteCovers s x y n k ∧ s.getPixel k = 0#1)

/-! ## Keys and timers -/

/-- R108, R109: EX9E and EXA1 are the words of class E with NN = 9E and A1; EX9E skips when the key named by the low nibble
of Vx is pressed, EXA1 when it is not; nothing but pc changes. -/
def Obligations.SkipOnKey : Prop :=
  (∀ op : Word, classOf op = 0xE → (fieldNN op = 0x9E#8 → decodeWord op = .instr (.skp (fieldX op))) ∧
    (fieldNN op = 0xA1#8 → decodeWord op = .instr (.sknp (fieldX op)))) ∧
  ∀ (x : Reg) (k : Reg) (s : State), k.val = (s.getV x).toNat % 16 →
    (∃ t, exec (.skp x) s = .next t ∧ (s.key k = true → t.pc = s.pc + 4#16) ∧ (s.key k = false → t.pc = s.pc + 2#16) ∧
      KeepsRegsBut (fun _ => False) s t ∧ KeepsAllBut [] s t) ∧
    (∃ t, exec (.sknp x) s = .next t ∧ (s.key k = false → t.pc = s.pc + 4#16) ∧ (s.key k = true → t.pc = s.pc + 2#16) ∧
      KeepsRegsBut (fun _ => False) s t ∧ KeepsAllBut [] s t)

/-- R110, R113, R114: FX07, FX15 and FX18 complete: Vx from DT, DT from Vx, ST from Vx, before the cycle's tick. -/
def Obligations.TimerTransfers : Prop :=
  ∀ (x : Reg) (s : State),
    (∃ t, exec (.ldVxDt x) s = .next t ∧ t.getV x = s.dt ∧ t.pc = s.pc + 2#16 ∧ KeepsRegsBut (· = x) s t ∧
      KeepsAllBut [] s t) ∧
    (∃ t, exec (.ldDtVx x) s = .next t ∧ t.dt = s.getV x ∧ t.pc = s.pc + 2#16 ∧
      KeepsRegsBut (fun _ => False) s t ∧ KeepsAllBut [.delayTimer] s t) ∧
    (∃ t, exec (.ldStVx x) s = .next t ∧ t.st = s.getV x ∧ t.pc = s.pc + 2#16 ∧
      KeepsRegsBut (fun _ => False) s t ∧ KeepsAllBut [.soundTimer] s t)

/-- R61, R113, R114, R143: over a whole cycle FX15 leaves DT = Vx - 1 and FX18 ST = Vx - 1, stopping at 0, and FX18 signals the
tone in its own cycle exactly when Vx = 1. -/
def Obligations.TimerWritesTickInTheSameCycle : Prop :=
  ∀ (x : Reg) (s : State) (op : Word), s.run = .running → s.fetch = .word op →
    (decodeWord op = .instr (.ldDtVx x) → ∃ t, step s = .next t ∧ t.dt.toNat = (s.getV x).toNat - 1) ∧
    (decodeWord op = .instr (.ldStVx x) → ∃ t, step s = .next t ∧ t.st.toNat = (s.getV x).toNat - 1 ∧
      t.cycleResult = .ok ⟨false, false, decide (s.getV x = 1#8)⟩)

/-- R111 (D12): FX0A completes by entering WaitingForKey(X, the current keys); pc and everything else are unchanged. -/
def Obligations.WaitForKeyEntersTheWait : Prop :=
  ∀ (x : Reg) (s : State), ∃ t, exec (.ldVxK x) s = .next t ∧ t.run = .waitingForKey x s.keys ∧ t.pc = s.pc ∧
    KeepsRegsBut (fun _ => False) s t ∧ KeepsAllBut [.runState] s t
end

