-- ==== Sys2Proof/Laws/Decode.lean ====
section
/-! SUPPORT. Laws of the fields and of the words packed from them. -/

namespace Sys2Proof

theorem classOf_eq (op : Word) : classOf op = op.toNat / 0x1000 := by
  have := op.isLt
  simp only [classOf, BitVec.extractLsb'_toNat, Nat.shiftRight_eq_div_pow]
  omega

theorem fieldX_val (op : Word) : (fieldX op).val = op.toNat / 0x100 % 16 := by
  simp [fieldX, Nat.shiftRight_eq_div_pow]

theorem fieldY_val (op : Word) : (fieldY op).val = op.toNat / 0x10 % 16 := by
  simp [fieldY, Nat.shiftRight_eq_div_pow]

theorem fieldN_eq (op : Word) : fieldN op = op.toNat % 16 := by
  simp [fieldN]

theorem fieldNN_toNat (op : Word) : (fieldNN op).toNat = op.toNat % 0x100 := by
  simp [fieldNN]

theorem fieldNNN_toNat (op : Word) : (fieldNNN op).toNat = op.toNat % 0x1000 := by
  have : op.toNat % 4096 < 65536 := by omega
  simp only [fieldNNN, BitVec.toNat_setWidth, BitVec.extractLsb'_toNat, Nat.shiftRight_zero]
  omega

theorem packNNN_toNat {cls : Nat} {nnn : Word} (hc : cls < 16) (h : AddrFits nnn) :
    (packNNN cls nnn).toNat = cls * 0x1000 + nnn.toNat := by
  simp only [packNNN, BitVec.toNat_ofNat]
  omega

theorem packXNN_toNat {cls : Nat} (x : Reg) (nn : Byte) (hc : cls < 16) :
    (packXNN cls x nn).toNat = cls * 0x1000 + x.val * 0x100 + nn.toNat := by
  have := x.isLt
  have := nn.isLt
  simp only [packXNN, BitVec.toNat_ofNat]
  omega

theorem packXYN_toNat {cls n : Nat} (x y : Reg) (hc : cls < 16) (hn : CountFits n) :
    (packXYN cls x y n).toNat = cls * 0x1000 + x.val * 0x100 + y.val * 0x10 + n := by
  have := x.isLt
  have := y.isLt
  simp only [packXYN, BitVec.toNat_ofNat]
  omega

/-! The fields of a packed word are the fields it was packed from. -/

theorem fields_packNNN {cls : Nat} {nnn : Word} (hc : cls < 16) (h : AddrFits nnn) :
    classOf (packNNN cls nnn) = cls ∧ fieldNNN (packNNN cls nnn) = nnn := by
  have hp := packNNN_toNat hc h
  refine ⟨by rw [classOf_eq]; omega, BitVec.eq_of_toNat_eq ?_⟩
  rw [fieldNNN_toNat]
  omega

theorem fields_packXNN {cls : Nat} (x : Reg) (nn : Byte) (hc : cls < 16) :
    classOf (packXNN cls x nn) = cls ∧ fieldX (packXNN cls x nn) = x ∧ fieldNN (packXNN cls x nn) = nn := by
  have hp := packXNN_toNat x nn hc
  have := x.isLt
  have := nn.isLt
  refine ⟨by rw [classOf_eq]; omega, Fin.ext ?_, BitVec.eq_of_toNat_eq ?_⟩
  · rw [fieldX_val]; omega
  · rw [fieldNN_toNat]; omega

theorem fields_packXYN {cls n : Nat} (x y : Reg) (hc : cls < 16) (hn : CountFits n) :
    classOf (packXYN cls x y n) = cls ∧ fieldX (packXYN cls x y n) = x ∧ fieldY (packXYN cls x y n) = y ∧
      fieldN (packXYN cls x y n) = n := by
  have hp := packXYN_toNat x y hc hn
  have := x.isLt
  have := y.isLt
  refine ⟨by rw [classOf_eq]; omega, Fin.ext ?_, Fin.ext ?_, ?_⟩
  · rw [fieldX_val]; omega
  · rw [fieldY_val]; omega
  · rw [fieldN_eq]; omega

theorem wordOfBytes_toNat (hi lo : Byte) : (wordOfBytes hi lo).toNat = hi.toNat * 256 + lo.toNat := by
  have := lo.isLt
  simp only [wordOfBytes, BitVec.toNat_append]
  rw [← Nat.shiftLeft_add_eq_or_of_lt this, Nat.shiftLeft_eq]

/-- The two bytes of a word make the word. -/
theorem wordOfBytes_hiByte_loByte (op : Word) : wordOfBytes (hiByte op) (loByte op) = op := by
  apply BitVec.eq_of_toNat_eq
  have := op.isLt
  rw [wordOfBytes_toNat]
  simp only [hiByte, loByte, BitVec.extractLsb'_toNat, Nat.shiftRight_eq_div_pow]
  omega

/-! A word is packed from its own fields. -/

theorem packNNN_fields {op : Word} {c : Nat} (h : classOf op = c) : packNNN c (fieldNNN op) = op := by
  rw [classOf_eq] at h
  apply BitVec.eq_of_toNat_eq
  have := op.isLt
  simp only [packNNN, BitVec.toNat_ofNat, fieldNNN_toNat]
  omega

theorem packXNN_fields {op : Word} {c : Nat} {nn : Byte} (h : classOf op = c) (hn : fieldNN op = nn) :
    packXNN c (fieldX op) nn = op := by
  subst hn
  rw [classOf_eq] at h
  apply BitVec.eq_of_toNat_eq
  have := op.isLt
  simp only [packXNN, BitVec.toNat_ofNat, fieldX_val, fieldNN_toNat]
  omega

theorem packXYN_fields {op : Word} {c n : Nat} (h : classOf op = c) (hn : fieldN op = n) :
    packXYN c (fieldX op) (fieldY op) n = op := by
  subst hn
  rw [classOf_eq] at h
  apply BitVec.eq_of_toNat_eq
  have := op.isLt
  simp only [packXYN, BitVec.toNat_ofNat, fieldX_val, fieldY_val, fieldN_eq]
  omega

theorem fieldNNN_fits (op : Word) : AddrFits (fieldNNN op) := by rw [AddrFits, fieldNNN_toNat]; omega

theorem fieldN_fits (op : Word) : CountFits (fieldN op) := by rw [CountFits, fieldN_eq]; omega

/-! The masks of the opcode table, in terms of the fields. -/

theorem and_mask_toNat (op : Word) (k : Nat) (hk : k ≤ 12) :
    (op &&& BitVec.ofNat 16 (0xF000 + (2 ^ k - 1))).toNat = 2 ^ 12 * (op.toNat / 2 ^ 12) + op.toNat % 2 ^ k := by
  have hp : 2 ^ k ≤ 2 ^ 12 := Nat.pow_le_pow_right (by decide) hk
  have hmod : op.toNat % 2 ^ k < 2 ^ 12 := lt_of_lt_of_le (Nat.mod_lt _ (by positivity)) hp
  have hm : (BitVec.ofNat 16 (0xF000 + (2 ^ k - 1))).toNat = 2 ^ 12 * 15 + (2 ^ k - 1) := by
    rw [BitVec.toNat_ofNat, Nat.mod_eq_of_lt (by omega)]; omega
  rw [BitVec.toNat_and, hm]
  apply Nat.eq_of_testBit_eq
  intro i
  rw [Nat.testBit_and, Nat.testBit_two_pow_mul_add _ (by omega), Nat.testBit_two_pow_mul_add _ hmod]
  by_cases hi : i < 12
  · simp only [hi, if_true, Nat.testBit_two_pow_sub_one, Nat.testBit_mod_two_pow]
    rw [Bool.and_comm]
  · simp only [hi, if_false]
    have h15 : Nat.testBit 15 (i - 12) = decide (i - 12 < 4) := Nat.testBit_two_pow_sub_one 4 (i - 12)
    rw [h15, Nat.testBit_div_two_pow, show i - 12 + 12 = i by omega]
    by_cases h : i < 16
    · simp [show i - 12 < 4 by omega]
    · rw [Nat.testBit_lt_two_pow (lt_of_lt_of_le op.isLt (Nat.pow_le_pow_right (by decide) (by omega : 16 ≤ i)))]
      rfl


theorem class_matches {op : Word} {c : Nat} (hc : c < 16) :
    op &&& 0xF000#16 = BitVec.ofNat 16 (c * 0x1000) ↔ classOf op = c := by
  have h := and_mask_toNat op 0 (by decide)
  have := op.isLt
  rw [← BitVec.toNat_inj, show (0xF000#16) = BitVec.ofNat 16 (0xF000 + (2 ^ 0 - 1)) from rfl, h, BitVec.toNat_ofNat,
    classOf_eq]
  omega

theorem class_nibble_matches {op : Word} {c n : Nat} (hc : c < 16) (hn : n < 16) :
    op &&& 0xF00F#16 = BitVec.ofNat 16 (c * 0x1000 + n) ↔ classOf op = c ∧ fieldN op = n := by
  have h := and_mask_toNat op 4 (by decide)
  have := op.isLt
  rw [← BitVec.toNat_inj, show (0xF00F#16) = BitVec.ofNat 16 (0xF000 + (2 ^ 4 - 1)) from rfl, h, BitVec.toNat_ofNat,
    classOf_eq, fieldN_eq]
  omega

theorem class_byte_matches {op : Word} {c n : Nat} (hc : c < 16) (hn : n < 256) :
    op &&& 0xF0FF#16 = BitVec.ofNat 16 (c * 0x1000 + n) ↔ classOf op = c ∧ (fieldNN op).toNat = n := by
  have h := and_mask_toNat op 8 (by decide)
  have := op.isLt
  rw [← BitVec.toNat_inj, show (0xF0FF#16) = BitVec.ofNat 16 (0xF000 + (2 ^ 8 - 1)) from rfl, h, BitVec.toNat_ofNat,
    classOf_eq, fieldNN_toNat]
  omega

theorem word_matches {op w : Word} : op &&& 0xFFFF#16 = w ↔ op = w := by
  rw [show (0xFFFF#16) = BitVec.allOnes 16 from rfl, BitVec.and_allOnes]

end Sys2Proof
end

