-- ==== Sys2Proof/Laws/State.lean ====
section
/-! SUPPORT. Laws of the named updates: one lemma per field, and per view of the state, that an update sets or leaves. -/

namespace Sys2Proof.Machine

/-! `setV` -/

@[simp] theorem State.setV_pc (s : State) (r : Reg) (b : Byte) : (s.setV r b).pc = s.pc := rfl
@[simp] theorem State.setV_i (s : State) (r : Reg) (b : Byte) : (s.setV r b).i = s.i := rfl
@[simp] theorem State.setV_dt (s : State) (r : Reg) (b : Byte) : (s.setV r b).dt = s.dt := rfl
@[simp] theorem State.setV_st (s : State) (r : Reg) (b : Byte) : (s.setV r b).st = s.st := rfl
@[simp] theorem State.setV_sp (s : State) (r : Reg) (b : Byte) : (s.setV r b).sp = s.sp := rfl
@[simp] theorem State.setV_stack (s : State) (r : Reg) (b : Byte) : (s.setV r b).stack = s.stack := rfl
@[simp] theorem State.setV_mem (s : State) (r : Reg) (b : Byte) : (s.setV r b).mem = s.mem := rfl
@[simp] theorem State.setV_fb (s : State) (r : Reg) (b : Byte) : (s.setV r b).fb = s.fb := rfl
@[simp] theorem State.setV_keys (s : State) (r : Reg) (b : Byte) : (s.setV r b).keys = s.keys := rfl
@[simp] theorem State.setV_run (s : State) (r : Reg) (b : Byte) : (s.setV r b).run = s.run := rfl
@[simp] theorem State.setV_out (s : State) (r : Reg) (b : Byte) : (s.setV r b).out = s.out := rfl
@[simp] theorem State.setV_params (s : State) (r : Reg) (b : Byte) : (s.setV r b).params = s.params := rfl
@[simp] theorem State.setV_keyInputs (s : State) (r : Reg) (b : Byte) : (s.setV r b).keyInputs = s.keyInputs := rfl
@[simp] theorem State.setV_cycles (s : State) (r : Reg) (b : Byte) : (s.setV r b).cycles = s.cycles := rfl
@[simp] theorem State.setV_draws (s : State) (r : Reg) (b : Byte) : (s.setV r b).draws = s.draws := rfl
@[simp] theorem State.setV_slot (s : State) (r : Reg) (b : Byte) (j : Fin 16) : (s.setV r b).slot j = s.slot j := rfl
@[simp] theorem State.setV_unlisted (s : State) (r : Reg) (b : Byte) : (s.setV r b).unlisted = s.unlisted := rfl
@[simp] theorem State.setV_byteAt (s : State) (r : Reg) (b : Byte) (c : Nat) : (s.setV r b).byteAt c = s.byteAt c := rfl
@[simp] theorem State.setV_memRead (s : State) (r : Reg) (b : Byte) (c : Nat) : (s.setV r b).memRead c = s.memRead c := rfl
@[simp] theorem State.setV_fetch (s : State) (r : Reg) (b : Byte) : (s.setV r b).fetch = s.fetch := rfl
@[simp] theorem State.setV_getPixel (s : State) (r : Reg) (b : Byte) (p : Fin 2048) : (s.setV r b).getPixel p = s.getPixel p := rfl
@[simp] theorem State.setV_key (s : State) (r : Reg) (b : Byte) (q : Reg) : (s.setV r b).key q = s.key q := rfl
@[simp] theorem State.setV_dataAddr (s : State) (r : Reg) (b : Byte) (c : Nat) : (s.setV r b).dataAddr c = s.dataAddr c := rfl

/-! `setI` -/

@[simp] theorem State.setI_v (s : State) (w : Word) : (s.setI w).v = s.v := rfl
@[simp] theorem State.setI_pc (s : State) (w : Word) : (s.setI w).pc = s.pc := rfl
@[simp] theorem State.setI_i (s : State) (w : Word) : (s.setI w).i = w := rfl
@[simp] theorem State.setI_dt (s : State) (w : Word) : (s.setI w).dt = s.dt := rfl
@[simp] theorem State.setI_st (s : State) (w : Word) : (s.setI w).st = s.st := rfl
@[simp] theorem State.setI_sp (s : State) (w : Word) : (s.setI w).sp = s.sp := rfl
@[simp] theorem State.setI_stack (s : State) (w : Word) : (s.setI w).stack = s.stack := rfl
@[simp] theorem State.setI_mem (s : State) (w : Word) : (s.setI w).mem = s.mem := rfl
@[simp] theorem State.setI_fb (s : State) (w : Word) : (s.setI w).fb = s.fb := rfl
@[simp] theorem State.setI_keys (s : State) (w : Word) : (s.setI w).keys = s.keys := rfl
@[simp] theorem State.setI_run (s : State) (w : Word) : (s.setI w).run = s.run := rfl
@[simp] theorem State.setI_out (s : State) (w : Word) : (s.setI w).out = s.out := rfl
@[simp] theorem State.setI_params (s : State) (w : Word) : (s.setI w).params = s.params := rfl
@[simp] theorem State.setI_keyInputs (s : State) (w : Word) : (s.setI w).keyInputs = s.keyInputs := rfl
@[simp] theorem State.setI_cycles (s : State) (w : Word) : (s.setI w).cycles = s.cycles := rfl
@[simp] theorem State.setI_draws (s : State) (w : Word) : (s.setI w).draws = s.draws := rfl
@[simp] theorem State.setI_getV (s : State) (w : Word) (q : Reg) : (s.setI w).getV q = s.getV q := rfl
@[simp] theorem State.setI_lowNibble (s : State) (w : Word) (q : Reg) : (s.setI w).lowNibble q = s.lowNibble q := rfl
@[simp] theorem State.setI_slot (s : State) (w : Word) (j : Fin 16) : (s.setI w).slot j = s.slot j := rfl
@[simp] theorem State.setI_unlisted (s : State) (w : Word) : (s.setI w).unlisted = s.unlisted := rfl
@[simp] theorem State.setI_byteAt (s : State) (w : Word) (c : Nat) : (s.setI w).byteAt c = s.byteAt c := rfl
@[simp] theorem State.setI_memRead (s : State) (w : Word) (c : Nat) : (s.setI w).memRead c = s.memRead c := rfl
@[simp] theorem State.setI_fetch (s : State) (w : Word) : (s.setI w).fetch = s.fetch := rfl
@[simp] theorem State.setI_getPixel (s : State) (w : Word) (p : Fin 2048) : (s.setI w).getPixel p = s.getPixel p := rfl
@[simp] theorem State.setI_key (s : State) (w : Word) (q : Reg) : (s.setI w).key q = s.key q := rfl

/-! `setDt` -/

@[simp] theorem State.setDt_v (s : State) (b : Byte) : (s.setDt b).v = s.v := rfl
@[simp] theorem State.setDt_pc (s : State) (b : Byte) : (s.setDt b).pc = s.pc := rfl
@[simp] theorem State.setDt_i (s : State) (b : Byte) : (s.setDt b).i = s.i := rfl
@[simp] theorem State.setDt_dt (s : State) (b : Byte) : (s.setDt b).dt = b := rfl
@[simp] theorem State.setDt_st (s : State) (b : Byte) : (s.setDt b).st = s.st := rfl
@[simp] theorem State.setDt_sp (s : State) (b : Byte) : (s.setDt b).sp = s.sp := rfl
@[simp] theorem State.setDt_stack (s : State) (b : Byte) : (s.setDt b).stack = s.stack := rfl
@[simp] theorem State.setDt_mem (s : State) (b : Byte) : (s.setDt b).mem = s.mem := rfl
@[simp] theorem State.setDt_fb (s : State) (b : Byte) : (s.setDt b).fb = s.fb := rfl
@[simp] theorem State.setDt_keys (s : State) (b : Byte) : (s.setDt b).keys = s.keys := rfl
@[simp] theorem State.setDt_run (s : State) (b : Byte) : (s.setDt b).run = s.run := rfl
@[simp] theorem State.setDt_out (s : State) (b : Byte) : (s.setDt b).out = s.out := rfl
@[simp] theorem State.setDt_params (s : State) (b : Byte) : (s.setDt b).params = s.params := rfl
@[simp] theorem State.setDt_keyInputs (s : State) (b : Byte) : (s.setDt b).keyInputs = s.keyInputs := rfl
@[simp] theorem State.setDt_cycles (s : State) (b : Byte) : (s.setDt b).cycles = s.cycles := rfl
@[simp] theorem State.setDt_draws (s : State) (b : Byte) : (s.setDt b).draws = s.draws := rfl
@[simp] theorem State.setDt_getV (s : State) (b : Byte) (q : Reg) : (s.setDt b).getV q = s.getV q := rfl
@[simp] theorem State.setDt_lowNibble (s : State) (b : Byte) (q : Reg) : (s.setDt b).lowNibble q = s.lowNibble q := rfl
@[simp] theorem State.setDt_slot (s : State) (b : Byte) (j : Fin 16) : (s.setDt b).slot j = s.slot j := rfl
@[simp] theorem State.setDt_unlisted (s : State) (b : Byte) : (s.setDt b).unlisted = s.unlisted := rfl
@[simp] theorem State.setDt_byteAt (s : State) (b : Byte) (c : Nat) : (s.setDt b).byteAt c = s.byteAt c := rfl
@[simp] theorem State.setDt_memRead (s : State) (b : Byte) (c : Nat) : (s.setDt b).memRead c = s.memRead c := rfl
@[simp] theorem State.setDt_fetch (s : State) (b : Byte) : (s.setDt b).fetch = s.fetch := rfl
@[simp] theorem State.setDt_getPixel (s : State) (b : Byte) (p : Fin 2048) : (s.setDt b).getPixel p = s.getPixel p := rfl
@[simp] theorem State.setDt_key (s : State) (b : Byte) (q : Reg) : (s.setDt b).key q = s.key q := rfl
@[simp] theorem State.setDt_dataAddr (s : State) (b : Byte) (c : Nat) : (s.setDt b).dataAddr c = s.dataAddr c := rfl

/-! `setSt` -/

@[simp] theorem State.setSt_v (s : State) (b : Byte) : (s.setSt b).v = s.v := rfl
@[simp] theorem State.setSt_pc (s : State) (b : Byte) : (s.setSt b).pc = s.pc := rfl
@[simp] theorem State.setSt_i (s : State) (b : Byte) : (s.setSt b).i = s.i := rfl
@[simp] theorem State.setSt_dt (s : State) (b : Byte) : (s.setSt b).dt = s.dt := rfl
@[simp] theorem State.setSt_st (s : State) (b : Byte) : (s.setSt b).st = b := rfl
@[simp] theorem State.setSt_sp (s : State) (b : Byte) : (s.setSt b).sp = s.sp := rfl
@[simp] theorem State.setSt_stack (s : State) (b : Byte) : (s.setSt b).stack = s.stack := rfl
@[simp] theorem State.setSt_mem (s : State) (b : Byte) : (s.setSt b).mem = s.mem := rfl
@[simp] theorem State.setSt_fb (s : State) (b : Byte) : (s.setSt b).fb = s.fb := rfl
@[simp] theorem State.setSt_keys (s : State) (b : Byte) : (s.setSt b).keys = s.keys := rfl
@[simp] theorem State.setSt_run (s : State) (b : Byte) : (s.setSt b).run = s.run := rfl
@[simp] theorem State.setSt_out (s : State) (b : Byte) : (s.setSt b).out = s.out := rfl
@[simp] theorem State.setSt_params (s : State) (b : Byte) : (s.setSt b).params = s.params := rfl
@[simp] theorem State.setSt_keyInputs (s : State) (b : Byte) : (s.setSt b).keyInputs = s.keyInputs := rfl
@[simp] theorem State.setSt_cycles (s : State) (b : Byte) : (s.setSt b).cycles = s.cycles := rfl
@[simp] theorem State.setSt_draws (s : State) (b : Byte) : (s.setSt b).draws = s.draws := rfl
@[simp] theorem State.setSt_getV (s : State) (b : Byte) (q : Reg) : (s.setSt b).getV q = s.getV q := rfl
@[simp] theorem State.setSt_lowNibble (s : State) (b : Byte) (q : Reg) : (s.setSt b).lowNibble q = s.lowNibble q := rfl
@[simp] theorem State.setSt_slot (s : State) (b : Byte) (j : Fin 16) : (s.setSt b).slot j = s.slot j := rfl
@[simp] theorem State.setSt_unlisted (s : State) (b : Byte) : (s.setSt b).unlisted = s.unlisted := rfl
@[simp] theorem State.setSt_byteAt (s : State) (b : Byte) (c : Nat) : (s.setSt b).byteAt c = s.byteAt c := rfl
@[simp] theorem State.setSt_memRead (s : State) (b : Byte) (c : Nat) : (s.setSt b).memRead c = s.memRead c := rfl
@[simp] theorem State.setSt_fetch (s : State) (b : Byte) : (s.setSt b).fetch = s.fetch := rfl
@[simp] theorem State.setSt_getPixel (s : State) (b : Byte) (p : Fin 2048) : (s.setSt b).getPixel p = s.getPixel p := rfl
@[simp] theorem State.setSt_key (s : State) (b : Byte) (q : Reg) : (s.setSt b).key q = s.key q := rfl
@[simp] theorem State.setSt_dataAddr (s : State) (b : Byte) (c : Nat) : (s.setSt b).dataAddr c = s.dataAddr c := rfl

/-! `setPc` -/

@[simp] theorem State.setPc_v (s : State) (w : Word) : (s.setPc w).v = s.v := rfl
@[simp] theorem State.setPc_pc (s : State) (w : Word) : (s.setPc w).pc = w := rfl
@[simp] theorem State.setPc_i (s : State) (w : Word) : (s.setPc w).i = s.i := rfl
@[simp] theorem State.setPc_dt (s : State) (w : Word) : (s.setPc w).dt = s.dt := rfl
@[simp] theorem State.setPc_st (s : State) (w : Word) : (s.setPc w).st = s.st := rfl
@[simp] theorem State.setPc_sp (s : State) (w : Word) : (s.setPc w).sp = s.sp := rfl
@[simp] theorem State.setPc_stack (s : State) (w : Word) : (s.setPc w).stack = s.stack := rfl
@[simp] theorem State.setPc_mem (s : State) (w : Word) : (s.setPc w).mem = s.mem := rfl
@[simp] theorem State.setPc_fb (s : State) (w : Word) : (s.setPc w).fb = s.fb := rfl
@[simp] theorem State.setPc_keys (s : State) (w : Word) : (s.setPc w).keys = s.keys := rfl
@[simp] theorem State.setPc_run (s : State) (w : Word) : (s.setPc w).run = s.run := rfl
@[simp] theorem State.setPc_out (s : State) (w : Word) : (s.setPc w).out = s.out := rfl
@[simp] theorem State.setPc_params (s : State) (w : Word) : (s.setPc w).params = s.params := rfl
@[simp] theorem State.setPc_keyInputs (s : State) (w : Word) : (s.setPc w).keyInputs = s.keyInputs := rfl
@[simp] theorem State.setPc_cycles (s : State) (w : Word) : (s.setPc w).cycles = s.cycles := rfl
@[simp] theorem State.setPc_draws (s : State) (w : Word) : (s.setPc w).draws = s.draws := rfl
@[simp] theorem State.setPc_getV (s : State) (w : Word) (q : Reg) : (s.setPc w).getV q = s.getV q := rfl
@[simp] theorem State.setPc_lowNibble (s : State) (w : Word) (q : Reg) : (s.setPc w).lowNibble q = s.lowNibble q := rfl
@[simp] theorem State.setPc_slot (s : State) (w : Word) (j : Fin 16) : (s.setPc w).slot j = s.slot j := rfl
@[simp] theorem State.setPc_unlisted (s : State) (w : Word) : (s.setPc w).unlisted = s.unlisted := rfl
@[simp] theorem State.setPc_byteAt (s : State) (w : Word) (c : Nat) : (s.setPc w).byteAt c = s.byteAt c := rfl
@[simp] theorem State.setPc_memRead (s : State) (w : Word) (c : Nat) : (s.setPc w).memRead c = s.memRead c := rfl
@[simp] theorem State.setPc_getPixel (s : State) (w : Word) (p : Fin 2048) : (s.setPc w).getPixel p = s.getPixel p := rfl
@[simp] theorem State.setPc_key (s : State) (w : Word) (q : Reg) : (s.setPc w).key q = s.key q := rfl
@[simp] theorem State.setPc_dataAddr (s : State) (w : Word) (c : Nat) : (s.setPc w).dataAddr c = s.dataAddr c := rfl

/-! `setRun` -/

@[simp] theorem State.setRun_v (s : State) (r : RunState) : (s.setRun r).v = s.v := rfl
@[simp] theorem State.setRun_pc (s : State) (r : RunState) : (s.setRun r).pc = s.pc := rfl
@[simp] theorem State.setRun_i (s : State) (r : RunState) : (s.setRun r).i = s.i := rfl
@[simp] theorem State.setRun_dt (s : State) (r : RunState) : (s.setRun r).dt = s.dt := rfl
@[simp] theorem State.setRun_st (s : State) (r : RunState) : (s.setRun r).st = s.st := rfl
@[simp] theorem State.setRun_sp (s : State) (r : RunState) : (s.setRun r).sp = s.sp := rfl
@[simp] theorem State.setRun_stack (s : State) (r : RunState) : (s.setRun r).stack = s.stack := rfl
@[simp] theorem State.setRun_mem (s : State) (r : RunState) : (s.setRun r).mem = s.mem := rfl
@[simp] theorem State.setRun_fb (s : State) (r : RunState) : (s.setRun r).fb = s.fb := rfl
@[simp] theorem State.setRun_keys (s : State) (r : RunState) : (s.setRun r).keys = s.keys := rfl
@[simp] theorem State.setRun_run (s : State) (r : RunState) : (s.setRun r).run = r := rfl
@[simp] theorem State.setRun_out (s : State) (r : RunState) : (s.setRun r).out = s.out := rfl
@[simp] theorem State.setRun_params (s : State) (r : RunState) : (s.setRun r).params = s.params := rfl
@[simp] theorem State.setRun_keyInputs (s : State) (r : RunState) : (s.setRun r).keyInputs = s.keyInputs := rfl
@[simp] theorem State.setRun_cycles (s : State) (r : RunState) : (s.setRun r).cycles = s.cycles := rfl
@[simp] theorem State.setRun_draws (s : State) (r : RunState) : (s.setRun r).draws = s.draws := rfl
@[simp] theorem State.setRun_getV (s : State) (r : RunState) (q : Reg) : (s.setRun r).getV q = s.getV q := rfl
@[simp] theorem State.setRun_lowNibble (s : State) (r : RunState) (q : Reg) : (s.setRun r).lowNibble q = s.lowNibble q := rfl
@[simp] theorem State.setRun_slot (s : State) (r : RunState) (j : Fin 16) : (s.setRun r).slot j = s.slot j := rfl
@[simp] theorem State.setRun_unlisted (s : State) (r : RunState) : (s.setRun r).unlisted = s.unlisted := rfl
@[simp] theorem State.setRun_byteAt (s : State) (r : RunState) (c : Nat) : (s.setRun r).byteAt c = s.byteAt c := rfl
@[simp] theorem State.setRun_memRead (s : State) (r : RunState) (c : Nat) : (s.setRun r).memRead c = s.memRead c := rfl
@[simp] theorem State.setRun_fetch (s : State) (r : RunState) : (s.setRun r).fetch = s.fetch := rfl
@[simp] theorem State.setRun_getPixel (s : State) (r : RunState) (p : Fin 2048) : (s.setRun r).getPixel p = s.getPixel p := rfl
@[simp] theorem State.setRun_key (s : State) (r : RunState) (q : Reg) : (s.setRun r).key q = s.key q := rfl
@[simp] theorem State.setRun_dataAddr (s : State) (r : RunState) (c : Nat) : (s.setRun r).dataAddr c = s.dataAddr c := rfl

/-! `setOut` -/

@[simp] theorem State.setOut_v (s : State) (o : Outputs) : (s.setOut o).v = s.v := rfl
@[simp] theorem State.setOut_pc (s : State) (o : Outputs) : (s.setOut o).pc = s.pc := rfl
@[simp] theorem State.setOut_i (s : State) (o : Outputs) : (s.setOut o).i = s.i := rfl
@[simp] theorem State.setOut_dt (s : State) (o : Outputs) : (s.setOut o).dt = s.dt := rfl
@[simp] theorem State.setOut_st (s : State) (o : Outputs) : (s.setOut o).st = s.st := rfl
@[simp] theorem State.setOut_sp (s : State) (o : Outputs) : (s.setOut o).sp = s.sp := rfl
@[simp] theorem State.setOut_stack (s : State) (o : Outputs) : (s.setOut o).stack = s.stack := rfl
@[simp] theorem State.setOut_mem (s : State) (o : Outputs) : (s.setOut o).mem = s.mem := rfl
@[simp] theorem State.setOut_fb (s : State) (o : Outputs) : (s.setOut o).fb = s.fb := rfl
@[simp] theorem State.setOut_keys (s : State) (o : Outputs) : (s.setOut o).keys = s.keys := rfl
@[simp] theorem State.setOut_run (s : State) (o : Outputs) : (s.setOut o).run = s.run := rfl
@[simp] theorem State.setOut_out (s : State) (o : Outputs) : (s.setOut o).out = o := rfl
@[simp] theorem State.setOut_params (s : State) (o : Outputs) : (s.setOut o).params = s.params := rfl
@[simp] theorem State.setOut_keyInputs (s : State) (o : Outputs) : (s.setOut o).keyInputs = s.keyInputs := rfl
@[simp] theorem State.setOut_cycles (s : State) (o : Outputs) : (s.setOut o).cycles = s.cycles := rfl
@[simp] theorem State.setOut_draws (s : State) (o : Outputs) : (s.setOut o).draws = s.draws := rfl
@[simp] theorem State.setOut_getV (s : State) (o : Outputs) (q : Reg) : (s.setOut o).getV q = s.getV q := rfl
@[simp] theorem State.setOut_lowNibble (s : State) (o : Outputs) (q : Reg) : (s.setOut o).lowNibble q = s.lowNibble q := rfl
@[simp] theorem State.setOut_slot (s : State) (o : Outputs) (j : Fin 16) : (s.setOut o).slot j = s.slot j := rfl
@[simp] theorem State.setOut_unlisted (s : State) (o : Outputs) : (s.setOut o).unlisted = s.unlisted := rfl
@[simp] theorem State.setOut_byteAt (s : State) (o : Outputs) (c : Nat) : (s.setOut o).byteAt c = s.byteAt c := rfl
@[simp] theorem State.setOut_memRead (s : State) (o : Outputs) (c : Nat) : (s.setOut o).memRead c = s.memRead c := rfl
@[simp] theorem State.setOut_fetch (s : State) (o : Outputs) : (s.setOut o).fetch = s.fetch := rfl
@[simp] theorem State.setOut_getPixel (s : State) (o : Outputs) (p : Fin 2048) : (s.setOut o).getPixel p = s.getPixel p := rfl
@[simp] theorem State.setOut_key (s : State) (o : Outputs) (q : Reg) : (s.setOut o).key q = s.key q := rfl
@[simp] theorem State.setOut_dataAddr (s : State) (o : Outputs) (c : Nat) : (s.setOut o).dataAddr c = s.dataAddr c := rfl

/-! `poke` -/

@[simp] theorem State.poke_v (s : State) (a : Nat) (b : Byte) : (s.poke a b).v = s.v := rfl
@[simp] theorem State.poke_pc (s : State) (a : Nat) (b : Byte) : (s.poke a b).pc = s.pc := rfl
@[simp] theorem State.poke_i (s : State) (a : Nat) (b : Byte) : (s.poke a b).i = s.i := rfl
@[simp] theorem State.poke_dt (s : State) (a : Nat) (b : Byte) : (s.poke a b).dt = s.dt := rfl
@[simp] theorem State.poke_st (s : State) (a : Nat) (b : Byte) : (s.poke a b).st = s.st := rfl
@[simp] theorem State.poke_sp (s : State) (a : Nat) (b : Byte) : (s.poke a b).sp = s.sp := rfl
@[simp] theorem State.poke_stack (s : State) (a : Nat) (b : Byte) : (s.poke a b).stack = s.stack := rfl
@[simp] theorem State.poke_mem (s : State) (a : Nat) (b : Byte) : (s.poke a b).mem = (s.mem.write s.unlisted a b) := rfl
@[simp] theorem State.poke_fb (s : State) (a : Nat) (b : Byte) : (s.poke a b).fb = s.fb := rfl
@[simp] theorem State.poke_keys (s : State) (a : Nat) (b : Byte) : (s.poke a b).keys = s.keys := rfl
@[simp] theorem State.poke_run (s : State) (a : Nat) (b : Byte) : (s.poke a b).run = s.run := rfl
@[simp] theorem State.poke_out (s : State) (a : Nat) (b : Byte) : (s.poke a b).out = s.out := rfl
@[simp] theorem State.poke_params (s : State) (a : Nat) (b : Byte) : (s.poke a b).params = s.params := rfl
@[simp] theorem State.poke_keyInputs (s : State) (a : Nat) (b : Byte) : (s.poke a b).keyInputs = s.keyInputs := rfl
@[simp] theorem State.poke_cycles (s : State) (a : Nat) (b : Byte) : (s.poke a b).cycles = s.cycles := rfl
@[simp] theorem State.poke_draws (s : State) (a : Nat) (b : Byte) : (s.poke a b).draws = s.draws := rfl
@[simp] theorem State.poke_getV (s : State) (a : Nat) (b : Byte) (q : Reg) : (s.poke a b).getV q = s.getV q := rfl
@[simp] theorem State.poke_lowNibble (s : State) (a : Nat) (b : Byte) (q : Reg) : (s.poke a b).lowNibble q = s.lowNibble q := rfl
@[simp] theorem State.poke_slot (s : State) (a : Nat) (b : Byte) (j : Fin 16) : (s.poke a b).slot j = s.slot j := rfl
@[simp] theorem State.poke_unlisted (s : State) (a : Nat) (b : Byte) : (s.poke a b).unlisted = s.unlisted := rfl
@[simp] theorem State.poke_getPixel (s : State) (a : Nat) (b : Byte) (p : Fin 2048) : (s.poke a b).getPixel p = s.getPixel p := rfl
@[simp] theorem State.poke_key (s : State) (a : Nat) (b : Byte) (q : Reg) : (s.poke a b).key q = s.key q := rfl
@[simp] theorem State.poke_dataAddr (s : State) (a : Nat) (b : Byte) (c : Nat) : (s.poke a b).dataAddr c = s.dataAddr c := rfl

/-! `setPixel` -/

@[simp] theorem State.setPixel_v (s : State) (k : Fin 2048) (x : Pixel) : (s.setPixel k x).v = s.v := rfl
@[simp] theorem State.setPixel_pc (s : State) (k : Fin 2048) (x : Pixel) : (s.setPixel k x).pc = s.pc := rfl
@[simp] theorem State.setPixel_i (s : State) (k : Fin 2048) (x : Pixel) : (s.setPixel k x).i = s.i := rfl
@[simp] theorem State.setPixel_dt (s : State) (k : Fin 2048) (x : Pixel) : (s.setPixel k x).dt = s.dt := rfl
@[simp] theorem State.setPixel_st (s : State) (k : Fin 2048) (x : Pixel) : (s.setPixel k x).st = s.st := rfl
@[simp] theorem State.setPixel_sp (s : State) (k : Fin 2048) (x : Pixel) : (s.setPixel k x).sp = s.sp := rfl
@[simp] theorem State.setPixel_stack (s : State) (k : Fin 2048) (x : Pixel) : (s.setPixel k x).stack = s.stack := rfl
@[simp] theorem State.setPixel_mem (s : State) (k : Fin 2048) (x : Pixel) : (s.setPixel k x).mem = s.mem := rfl
@[simp] theorem State.setPixel_keys (s : State) (k : Fin 2048) (x : Pixel) : (s.setPixel k x).keys = s.keys := rfl
@[simp] theorem State.setPixel_run (s : State) (k : Fin 2048) (x : Pixel) : (s.setPixel k x).run = s.run := rfl
@[simp] theorem State.setPixel_out (s : State) (k : Fin 2048) (x : Pixel) : (s.setPixel k x).out = s.out := rfl
@[simp] theorem State.setPixel_params (s : State) (k : Fin 2048) (x : Pixel) : (s.setPixel k x).params = s.params := rfl
@[simp] theorem State.setPixel_keyInputs (s : State) (k : Fin 2048) (x : Pixel) : (s.setPixel k x).keyInputs = s.keyInputs := rfl
@[simp] theorem State.setPixel_cycles (s : State) (k : Fin 2048) (x : Pixel) : (s.setPixel k x).cycles = s.cycles := rfl
@[simp] theorem State.setPixel_draws (s : State) (k : Fin 2048) (x : Pixel) : (s.setPixel k x).draws = s.draws := rfl
@[simp] theorem State.setPixel_getV (s : State) (k : Fin 2048) (x : Pixel) (q : Reg) : (s.setPixel k x).getV q = s.getV q := rfl
@[simp] theorem State.setPixel_lowNibble (s : State) (k : Fin 2048) (x : Pixel) (q : Reg) : (s.setPixel k x).lowNibble q = s.lowNibble q := rfl
@[simp] theorem State.setPixel_slot (s : State) (k : Fin 2048) (x : Pixel) (j : Fin 16) : (s.setPixel k x).slot j = s.slot j := rfl
@[simp] theorem State.setPixel_unlisted (s : State) (k : Fin 2048) (x : Pixel) : (s.setPixel k x).unlisted = s.unlisted := rfl
@[simp] theorem State.setPixel_byteAt (s : State) (k : Fin 2048) (x : Pixel) (c : Nat) : (s.setPixel k x).byteAt c = s.byteAt c := rfl
@[simp] theorem State.setPixel_memRead (s : State) (k : Fin 2048) (x : Pixel) (c : Nat) : (s.setPixel k x).memRead c = s.memRead c := rfl
@[simp] theorem State.setPixel_fetch (s : State) (k : Fin 2048) (x : Pixel) : (s.setPixel k x).fetch = s.fetch := rfl
@[simp] theorem State.setPixel_key (s : State) (k : Fin 2048) (x : Pixel) (q : Reg) : (s.setPixel k x).key q = s.key q := rfl
@[simp] theorem State.setPixel_dataAddr (s : State) (k : Fin 2048) (x : Pixel) (c : Nat) : (s.setPixel k x).dataAddr c = s.dataAddr c := rfl

/-! `clearFb` -/

@[simp] theorem State.clearFb_v (s : State) : (s.clearFb).v = s.v := rfl
@[simp] theorem State.clearFb_pc (s : State) : (s.clearFb).pc = s.pc := rfl
@[simp] theorem State.clearFb_i (s : State) : (s.clearFb).i = s.i := rfl
@[simp] theorem State.clearFb_dt (s : State) : (s.clearFb).dt = s.dt := rfl
@[simp] theorem State.clearFb_st (s : State) : (s.clearFb).st = s.st := rfl
@[simp] theorem State.clearFb_sp (s : State) : (s.clearFb).sp = s.sp := rfl
@[simp] theorem State.clearFb_stack (s : State) : (s.clearFb).stack = s.stack := rfl
@[simp] theorem State.clearFb_mem (s : State) : (s.clearFb).mem = s.mem := rfl
@[simp] theorem State.clearFb_fb (s : State) : (s.clearFb).fb = clearFramebuffer := rfl
@[simp] theorem State.clearFb_keys (s : State) : (s.clearFb).keys = s.keys := rfl
@[simp] theorem State.clearFb_run (s : State) : (s.clearFb).run = s.run := rfl
@[simp] theorem State.clearFb_out (s : State) : (s.clearFb).out = s.out := rfl
@[simp] theorem State.clearFb_params (s : State) : (s.clearFb).params = s.params := rfl
@[simp] theorem State.clearFb_keyInputs (s : State) : (s.clearFb).keyInputs = s.keyInputs := rfl
@[simp] theorem State.clearFb_cycles (s : State) : (s.clearFb).cycles = s.cycles := rfl
@[simp] theorem State.clearFb_draws (s : State) : (s.clearFb).draws = s.draws := rfl
@[simp] theorem State.clearFb_getV (s : State) (q : Reg) : (s.clearFb).getV q = s.getV q := rfl
@[simp] theorem State.clearFb_lowNibble (s : State) (q : Reg) : (s.clearFb).lowNibble q = s.lowNibble q := rfl
@[simp] theorem State.clearFb_slot (s : State) (j : Fin 16) : (s.clearFb).slot j = s.slot j := rfl
@[simp] theorem State.clearFb_unlisted (s : State) : (s.clearFb).unlisted = s.unlisted := rfl
@[simp] theorem State.clearFb_byteAt (s : State) (c : Nat) : (s.clearFb).byteAt c = s.byteAt c := rfl
@[simp] theorem State.clearFb_memRead (s : State) (c : Nat) : (s.clearFb).memRead c = s.memRead c := rfl
@[simp] theorem State.clearFb_fetch (s : State) : (s.clearFb).fetch = s.fetch := rfl
@[simp] theorem State.clearFb_key (s : State) (q : Reg) : (s.clearFb).key q = s.key q := rfl
@[simp] theorem State.clearFb_dataAddr (s : State) (c : Nat) : (s.clearFb).dataAddr c = s.dataAddr c := rfl

/-! `writeKey` -/

@[simp] theorem State.writeKey_v (s : State) (k : Reg) (d : Bool) : (s.writeKey k d).v = s.v := rfl
@[simp] theorem State.writeKey_pc (s : State) (k : Reg) (d : Bool) : (s.writeKey k d).pc = s.pc := rfl
@[simp] theorem State.writeKey_i (s : State) (k : Reg) (d : Bool) : (s.writeKey k d).i = s.i := rfl
@[simp] theorem State.writeKey_dt (s : State) (k : Reg) (d : Bool) : (s.writeKey k d).dt = s.dt := rfl
@[simp] theorem State.writeKey_st (s : State) (k : Reg) (d : Bool) : (s.writeKey k d).st = s.st := rfl
@[simp] theorem State.writeKey_sp (s : State) (k : Reg) (d : Bool) : (s.writeKey k d).sp = s.sp := rfl
@[simp] theorem State.writeKey_stack (s : State) (k : Reg) (d : Bool) : (s.writeKey k d).stack = s.stack := rfl
@[simp] theorem State.writeKey_mem (s : State) (k : Reg) (d : Bool) : (s.writeKey k d).mem = s.mem := rfl
@[simp] theorem State.writeKey_fb (s : State) (k : Reg) (d : Bool) : (s.writeKey k d).fb = s.fb := rfl
@[simp] theorem State.writeKey_run (s : State) (k : Reg) (d : Bool) : (s.writeKey k d).run = s.run := rfl
@[simp] theorem State.writeKey_out (s : State) (k : Reg) (d : Bool) : (s.writeKey k d).out = s.out := rfl
@[simp] theorem State.writeKey_params (s : State) (k : Reg) (d : Bool) : (s.writeKey k d).params = s.params := rfl
@[simp] theorem State.writeKey_keyInputs (s : State) (k : Reg) (d : Bool) : (s.writeKey k d).keyInputs = s.keyInputs := rfl
@[simp] theorem State.writeKey_cycles (s : State) (k : Reg) (d : Bool) : (s.writeKey k d).cycles = s.cycles := rfl
@[simp] theorem State.writeKey_draws (s : State) (k : Reg) (d : Bool) : (s.writeKey k d).draws = s.draws := rfl
@[simp] theorem State.writeKey_getV (s : State) (k : Reg) (d : Bool) (q : Reg) : (s.writeKey k d).getV q = s.getV q := rfl
@[simp] theorem State.writeKey_lowNibble (s : State) (k : Reg) (d : Bool) (q : Reg) : (s.writeKey k d).lowNibble q = s.lowNibble q := rfl
@[simp] theorem State.writeKey_slot (s : State) (k : Reg) (d : Bool) (j : Fin 16) : (s.writeKey k d).slot j = s.slot j := rfl
@[simp] theorem State.writeKey_unlisted (s : State) (k : Reg) (d : Bool) : (s.writeKey k d).unlisted = s.unlisted := rfl
@[simp] theorem State.writeKey_byteAt (s : State) (k : Reg) (d : Bool) (c : Nat) : (s.writeKey k d).byteAt c = s.byteAt c := rfl
@[simp] theorem State.writeKey_memRead (s : State) (k : Reg) (d : Bool) (c : Nat) : (s.writeKey k d).memRead c = s.memRead c := rfl
@[simp] theorem State.writeKey_fetch (s : State) (k : Reg) (d : Bool) : (s.writeKey k d).fetch = s.fetch := rfl
@[simp] theorem State.writeKey_getPixel (s : State) (k : Reg) (d : Bool) (p : Fin 2048) : (s.writeKey k d).getPixel p = s.getPixel p := rfl
@[simp] theorem State.writeKey_dataAddr (s : State) (k : Reg) (d : Bool) (c : Nat) : (s.writeKey k d).dataAddr c = s.dataAddr c := rfl

/-! `advance` -/

@[simp] theorem State.advance_v (s : State) : (s.advance).v = s.v := rfl
@[simp] theorem State.advance_pc (s : State) : (s.advance).pc = (s.pc + 2#16) := rfl
@[simp] theorem State.advance_i (s : State) : (s.advance).i = s.i := rfl
@[simp] theorem State.advance_dt (s : State) : (s.advance).dt = s.dt := rfl
@[simp] theorem State.advance_st (s : State) : (s.advance).st = s.st := rfl
@[simp] theorem State.advance_sp (s : State) : (s.advance).sp = s.sp := rfl
@[simp] theorem State.advance_stack (s : State) : (s.advance).stack = s.stack := rfl
@[simp] theorem State.advance_mem (s : State) : (s.advance).mem = s.mem := rfl
@[simp] theorem State.advance_fb (s : State) : (s.advance).fb = s.fb := rfl
@[simp] theorem State.advance_keys (s : State) : (s.advance).keys = s.keys := rfl
@[simp] theorem State.advance_run (s : State) : (s.advance).run = s.run := rfl
@[simp] theorem State.advance_out (s : State) : (s.advance).out = s.out := rfl
@[simp] theorem State.advance_params (s : State) : (s.advance).params = s.params := rfl
@[simp] theorem State.advance_keyInputs (s : State) : (s.advance).keyInputs = s.keyInputs := rfl
@[simp] theorem State.advance_cycles (s : State) : (s.advance).cycles = s.cycles := rfl
@[simp] theorem State.advance_draws (s : State) : (s.advance).draws = s.draws := rfl
@[simp] theorem State.advance_getV (s : State) (q : Reg) : (s.advance).getV q = s.getV q := rfl
@[simp] theorem State.advance_lowNibble (s : State) (q : Reg) : (s.advance).lowNibble q = s.lowNibble q := rfl
@[simp] theorem State.advance_slot (s : State) (j : Fin 16) : (s.advance).slot j = s.slot j := rfl
@[simp] theorem State.advance_unlisted (s : State) : (s.advance).unlisted = s.unlisted := rfl
@[simp] theorem State.advance_byteAt (s : State) (c : Nat) : (s.advance).byteAt c = s.byteAt c := rfl
@[simp] theorem State.advance_memRead (s : State) (c : Nat) : (s.advance).memRead c = s.memRead c := rfl
@[simp] theorem State.advance_getPixel (s : State) (p : Fin 2048) : (s.advance).getPixel p = s.getPixel p := rfl
@[simp] theorem State.advance_key (s : State) (q : Reg) : (s.advance).key q = s.key q := rfl
@[simp] theorem State.advance_dataAddr (s : State) (c : Nat) : (s.advance).dataAddr c = s.dataAddr c := rfl

/-! `skipIf` -/

@[simp] theorem State.skipIf_v (s : State) (d : Bool) : (s.skipIf d).v = s.v := rfl
@[simp] theorem State.skipIf_pc (s : State) (d : Bool) : (s.skipIf d).pc = (if d then s.pc + 4#16 else s.pc + 2#16) := rfl
@[simp] theorem State.skipIf_i (s : State) (d : Bool) : (s.skipIf d).i = s.i := rfl
@[simp] theorem State.skipIf_dt (s : State) (d : Bool) : (s.skipIf d).dt = s.dt := rfl
@[simp] theorem State.skipIf_st (s : State) (d : Bool) : (s.skipIf d).st = s.st := rfl
@[simp] theorem State.skipIf_sp (s : State) (d : Bool) : (s.skipIf d).sp = s.sp := rfl
@[simp] theorem State.skipIf_stack (s : State) (d : Bool) : (s.skipIf d).stack = s.stack := rfl
@[simp] theorem State.skipIf_mem (s : State) (d : Bool) : (s.skipIf d).mem = s.mem := rfl
@[simp] theorem State.skipIf_fb (s : State) (d : Bool) : (s.skipIf d).fb = s.fb := rfl
@[simp] theorem State.skipIf_keys (s : State) (d : Bool) : (s.skipIf d).keys = s.keys := rfl
@[simp] theorem State.skipIf_run (s : State) (d : Bool) : (s.skipIf d).run = s.run := rfl
@[simp] theorem State.skipIf_out (s : State) (d : Bool) : (s.skipIf d).out = s.out := rfl
@[simp] theorem State.skipIf_params (s : State) (d : Bool) : (s.skipIf d).params = s.params := rfl
@[simp] theorem State.skipIf_keyInputs (s : State) (d : Bool) : (s.skipIf d).keyInputs = s.keyInputs := rfl
@[simp] theorem State.skipIf_cycles (s : State) (d : Bool) : (s.skipIf d).cycles = s.cycles := rfl
@[simp] theorem State.skipIf_draws (s : State) (d : Bool) : (s.skipIf d).draws = s.draws := rfl
@[simp] theorem State.skipIf_getV (s : State) (d : Bool) (q : Reg) : (s.skipIf d).getV q = s.getV q := rfl
@[simp] theorem State.skipIf_lowNibble (s : State) (d : Bool) (q : Reg) : (s.skipIf d).lowNibble q = s.lowNibble q := rfl
@[simp] theorem State.skipIf_slot (s : State) (d : Bool) (j : Fin 16) : (s.skipIf d).slot j = s.slot j := rfl
@[simp] theorem State.skipIf_unlisted (s : State) (d : Bool) : (s.skipIf d).unlisted = s.unlisted := rfl
@[simp] theorem State.skipIf_byteAt (s : State) (d : Bool) (c : Nat) : (s.skipIf d).byteAt c = s.byteAt c := rfl
@[simp] theorem State.skipIf_memRead (s : State) (d : Bool) (c : Nat) : (s.skipIf d).memRead c = s.memRead c := rfl
@[simp] theorem State.skipIf_getPixel (s : State) (d : Bool) (p : Fin 2048) : (s.skipIf d).getPixel p = s.getPixel p := rfl
@[simp] theorem State.skipIf_key (s : State) (d : Bool) (q : Reg) : (s.skipIf d).key q = s.key q := rfl
@[simp] theorem State.skipIf_dataAddr (s : State) (d : Bool) (c : Nat) : (s.skipIf d).dataAddr c = s.dataAddr c := rfl

/-! `setFlag` -/

@[simp] theorem State.setFlag_pc (s : State) (b : Byte) : (s.setFlag b).pc = s.pc := rfl
@[simp] theorem State.setFlag_i (s : State) (b : Byte) : (s.setFlag b).i = s.i := rfl
@[simp] theorem State.setFlag_dt (s : State) (b : Byte) : (s.setFlag b).dt = s.dt := rfl
@[simp] theorem State.setFlag_st (s : State) (b : Byte) : (s.setFlag b).st = s.st := rfl
@[simp] theorem State.setFlag_sp (s : State) (b : Byte) : (s.setFlag b).sp = s.sp := rfl
@[simp] theorem State.setFlag_stack (s : State) (b : Byte) : (s.setFlag b).stack = s.stack := rfl
@[simp] theorem State.setFlag_mem (s : State) (b : Byte) : (s.setFlag b).mem = s.mem := rfl
@[simp] theorem State.setFlag_fb (s : State) (b : Byte) : (s.setFlag b).fb = s.fb := rfl
@[simp] theorem State.setFlag_keys (s : State) (b : Byte) : (s.setFlag b).keys = s.keys := rfl
@[simp] theorem State.setFlag_run (s : State) (b : Byte) : (s.setFlag b).run = s.run := rfl
@[simp] theorem State.setFlag_out (s : State) (b : Byte) : (s.setFlag b).out = s.out := rfl
@[simp] theorem State.setFlag_params (s : State) (b : Byte) : (s.setFlag b).params = s.params := rfl
@[simp] theorem State.setFlag_keyInputs (s : State) (b : Byte) : (s.setFlag b).keyInputs = s.keyInputs := rfl
@[simp] theorem State.setFlag_cycles (s : State) (b : Byte) : (s.setFlag b).cycles = s.cycles := rfl
@[simp] theorem State.setFlag_draws (s : State) (b : Byte) : (s.setFlag b).draws = s.draws := rfl
@[simp] theorem State.setFlag_slot (s : State) (b : Byte) (j : Fin 16) : (s.setFlag b).slot j = s.slot j := rfl
@[simp] theorem State.setFlag_unlisted (s : State) (b : Byte) : (s.setFlag b).unlisted = s.unlisted := rfl
@[simp] theorem State.setFlag_byteAt (s : State) (b : Byte) (c : Nat) : (s.setFlag b).byteAt c = s.byteAt c := rfl
@[simp] theorem State.setFlag_memRead (s : State) (b : Byte) (c : Nat) : (s.setFlag b).memRead c = s.memRead c := rfl
@[simp] theorem State.setFlag_fetch (s : State) (b : Byte) : (s.setFlag b).fetch = s.fetch := rfl
@[simp] theorem State.setFlag_getPixel (s : State) (b : Byte) (p : Fin 2048) : (s.setFlag b).getPixel p = s.getPixel p := rfl
@[simp] theorem State.setFlag_key (s : State) (b : Byte) (q : Reg) : (s.setFlag b).key q = s.key q := rfl
@[simp] theorem State.setFlag_dataAddr (s : State) (b : Byte) (c : Nat) : (s.setFlag b).dataAddr c = s.dataAddr c := rfl

/-! `raise` -/

@[simp] theorem State.raise_v (s : State) (e : ErrorCause) : (s.raise e).v = s.v := rfl
@[simp] theorem State.raise_pc (s : State) (e : ErrorCause) : (s.raise e).pc = s.pc := rfl
@[simp] theorem State.raise_i (s : State) (e : ErrorCause) : (s.raise e).i = s.i := rfl
@[simp] theorem State.raise_dt (s : State) (e : ErrorCause) : (s.raise e).dt = s.dt := rfl
@[simp] theorem State.raise_st (s : State) (e : ErrorCause) : (s.raise e).st = s.st := rfl
@[simp] theorem State.raise_sp (s : State) (e : ErrorCause) : (s.raise e).sp = s.sp := rfl
@[simp] theorem State.raise_stack (s : State) (e : ErrorCause) : (s.raise e).stack = s.stack := rfl
@[simp] theorem State.raise_mem (s : State) (e : ErrorCause) : (s.raise e).mem = s.mem := rfl
@[simp] theorem State.raise_fb (s : State) (e : ErrorCause) : (s.raise e).fb = s.fb := rfl
@[simp] theorem State.raise_keys (s : State) (e : ErrorCause) : (s.raise e).keys = s.keys := rfl
@[simp] theorem State.raise_run (s : State) (e : ErrorCause) : (s.raise e).run = (.halted ⟨e, some s.pc⟩) := rfl
@[simp] theorem State.raise_out (s : State) (e : ErrorCause) : (s.raise e).out = Outputs.none := rfl
@[simp] theorem State.raise_params (s : State) (e : ErrorCause) : (s.raise e).params = s.params := rfl
@[simp] theorem State.raise_keyInputs (s : State) (e : ErrorCause) : (s.raise e).keyInputs = s.keyInputs := rfl
@[simp] theorem State.raise_cycles (s : State) (e : ErrorCause) : (s.raise e).cycles = s.cycles := rfl
@[simp] theorem State.raise_draws (s : State) (e : ErrorCause) : (s.raise e).draws = s.draws := rfl
@[simp] theorem State.raise_getV (s : State) (e : ErrorCause) (q : Reg) : (s.raise e).getV q = s.getV q := rfl
@[simp] theorem State.raise_lowNibble (s : State) (e : ErrorCause) (q : Reg) : (s.raise e).lowNibble q = s.lowNibble q := rfl
@[simp] theorem State.raise_slot (s : State) (e : ErrorCause) (j : Fin 16) : (s.raise e).slot j = s.slot j := rfl
@[simp] theorem State.raise_unlisted (s : State) (e : ErrorCause) : (s.raise e).unlisted = s.unlisted := rfl
@[simp] theorem State.raise_byteAt (s : State) (e : ErrorCause) (c : Nat) : (s.raise e).byteAt c = s.byteAt c := rfl
@[simp] theorem State.raise_memRead (s : State) (e : ErrorCause) (c : Nat) : (s.raise e).memRead c = s.memRead c := rfl
@[simp] theorem State.raise_fetch (s : State) (e : ErrorCause) : (s.raise e).fetch = s.fetch := rfl
@[simp] theorem State.raise_getPixel (s : State) (e : ErrorCause) (p : Fin 2048) : (s.raise e).getPixel p = s.getPixel p := rfl
@[simp] theorem State.raise_key (s : State) (e : ErrorCause) (q : Reg) : (s.raise e).key q = s.key q := rfl
@[simp] theorem State.raise_dataAddr (s : State) (e : ErrorCause) (c : Nat) : (s.raise e).dataAddr c = s.dataAddr c := rfl

/-! `takeDraw` -/

@[simp] theorem State.takeDraw_pc (s : State) (x : Reg) (n b : Byte) : (s.takeDraw x n b).pc = s.pc := rfl
@[simp] theorem State.takeDraw_i (s : State) (x : Reg) (n b : Byte) : (s.takeDraw x n b).i = s.i := rfl
@[simp] theorem State.takeDraw_dt (s : State) (x : Reg) (n b : Byte) : (s.takeDraw x n b).dt = s.dt := rfl
@[simp] theorem State.takeDraw_st (s : State) (x : Reg) (n b : Byte) : (s.takeDraw x n b).st = s.st := rfl
@[simp] theorem State.takeDraw_sp (s : State) (x : Reg) (n b : Byte) : (s.takeDraw x n b).sp = s.sp := rfl
@[simp] theorem State.takeDraw_stack (s : State) (x : Reg) (n b : Byte) : (s.takeDraw x n b).stack = s.stack := rfl
@[simp] theorem State.takeDraw_mem (s : State) (x : Reg) (n b : Byte) : (s.takeDraw x n b).mem = s.mem := rfl
@[simp] theorem State.takeDraw_fb (s : State) (x : Reg) (n b : Byte) : (s.takeDraw x n b).fb = s.fb := rfl
@[simp] theorem State.takeDraw_keys (s : State) (x : Reg) (n b : Byte) : (s.takeDraw x n b).keys = s.keys := rfl
@[simp] theorem State.takeDraw_run (s : State) (x : Reg) (n b : Byte) : (s.takeDraw x n b).run = s.run := rfl
@[simp] theorem State.takeDraw_out (s : State) (x : Reg) (n b : Byte) : (s.takeDraw x n b).out = s.out := rfl
@[simp] theorem State.takeDraw_params (s : State) (x : Reg) (n b : Byte) : (s.takeDraw x n b).params = s.params := rfl
@[simp] theorem State.takeDraw_keyInputs (s : State) (x : Reg) (n b : Byte) : (s.takeDraw x n b).keyInputs = s.keyInputs := rfl
@[simp] theorem State.takeDraw_cycles (s : State) (x : Reg) (n b : Byte) : (s.takeDraw x n b).cycles = s.cycles := rfl
@[simp] theorem State.takeDraw_draws (s : State) (x : Reg) (n b : Byte) : (s.takeDraw x n b).draws = (s.draws + 1) := rfl
@[simp] theorem State.takeDraw_slot (s : State) (x : Reg) (n b : Byte) (j : Fin 16) : (s.takeDraw x n b).slot j = s.slot j := rfl
@[simp] theorem State.takeDraw_unlisted (s : State) (x : Reg) (n b : Byte) : (s.takeDraw x n b).unlisted = s.unlisted := rfl
@[simp] theorem State.takeDraw_byteAt (s : State) (x : Reg) (n b : Byte) (c : Nat) : (s.takeDraw x n b).byteAt c = s.byteAt c := rfl
@[simp] theorem State.takeDraw_memRead (s : State) (x : Reg) (n b : Byte) (c : Nat) : (s.takeDraw x n b).memRead c = s.memRead c := rfl
@[simp] theorem State.takeDraw_fetch (s : State) (x : Reg) (n b : Byte) : (s.takeDraw x n b).fetch = s.fetch := rfl
@[simp] theorem State.takeDraw_getPixel (s : State) (x : Reg) (n b : Byte) (p : Fin 2048) : (s.takeDraw x n b).getPixel p = s.getPixel p := rfl
@[simp] theorem State.takeDraw_key (s : State) (x : Reg) (n b : Byte) (q : Reg) : (s.takeDraw x n b).key q = s.key q := rfl
@[simp] theorem State.takeDraw_dataAddr (s : State) (x : Reg) (n b : Byte) (c : Nat) : (s.takeDraw x n b).dataAddr c = s.dataAddr c := rfl

/-! `tick` -/

@[simp] theorem State.tick_v (s : State) : (s.tick).v = s.v := rfl
@[simp] theorem State.tick_pc (s : State) : (s.tick).pc = s.pc := rfl
@[simp] theorem State.tick_i (s : State) : (s.tick).i = s.i := rfl
@[simp] theorem State.tick_dt (s : State) : (s.tick).dt = (if s.dt = 0#8 then s.dt else s.dt - 1#8) := rfl
@[simp] theorem State.tick_st (s : State) : (s.tick).st = (if s.st = 0#8 then s.st else s.st - 1#8) := rfl
@[simp] theorem State.tick_sp (s : State) : (s.tick).sp = s.sp := rfl
@[simp] theorem State.tick_stack (s : State) : (s.tick).stack = s.stack := rfl
@[simp] theorem State.tick_mem (s : State) : (s.tick).mem = s.mem := rfl
@[simp] theorem State.tick_fb (s : State) : (s.tick).fb = s.fb := rfl
@[simp] theorem State.tick_keys (s : State) : (s.tick).keys = s.keys := rfl
@[simp] theorem State.tick_run (s : State) : (s.tick).run = s.run := rfl
@[simp] theorem State.tick_params (s : State) : (s.tick).params = s.params := rfl
@[simp] theorem State.tick_keyInputs (s : State) : (s.tick).keyInputs = s.keyInputs := rfl
@[simp] theorem State.tick_cycles (s : State) : (s.tick).cycles = s.cycles := rfl
@[simp] theorem State.tick_draws (s : State) : (s.tick).draws = s.draws := rfl
@[simp] theorem State.tick_getV (s : State) (q : Reg) : (s.tick).getV q = s.getV q := rfl
@[simp] theorem State.tick_lowNibble (s : State) (q : Reg) : (s.tick).lowNibble q = s.lowNibble q := rfl
@[simp] theorem State.tick_slot (s : State) (j : Fin 16) : (s.tick).slot j = s.slot j := rfl
@[simp] theorem State.tick_unlisted (s : State) : (s.tick).unlisted = s.unlisted := rfl
@[simp] theorem State.tick_byteAt (s : State) (c : Nat) : (s.tick).byteAt c = s.byteAt c := rfl
@[simp] theorem State.tick_memRead (s : State) (c : Nat) : (s.tick).memRead c = s.memRead c := rfl
@[simp] theorem State.tick_fetch (s : State) : (s.tick).fetch = s.fetch := rfl
@[simp] theorem State.tick_getPixel (s : State) (p : Fin 2048) : (s.tick).getPixel p = s.getPixel p := rfl
@[simp] theorem State.tick_key (s : State) (q : Reg) : (s.tick).key q = s.key q := rfl
@[simp] theorem State.tick_dataAddr (s : State) (c : Nat) : (s.tick).dataAddr c = s.dataAddr c := rfl

/-! `endDraw` -/

@[simp] theorem State.endDraw_v (s : State) : (s.endDraw).v = s.v := rfl
@[simp] theorem State.endDraw_pc (s : State) : (s.endDraw).pc = (s.pc + 2#16) := rfl
@[simp] theorem State.endDraw_i (s : State) : (s.endDraw).i = s.i := rfl
@[simp] theorem State.endDraw_dt (s : State) : (s.endDraw).dt = s.dt := rfl
@[simp] theorem State.endDraw_st (s : State) : (s.endDraw).st = s.st := rfl
@[simp] theorem State.endDraw_sp (s : State) : (s.endDraw).sp = s.sp := rfl
@[simp] theorem State.endDraw_stack (s : State) : (s.endDraw).stack = s.stack := rfl
@[simp] theorem State.endDraw_mem (s : State) : (s.endDraw).mem = s.mem := rfl
@[simp] theorem State.endDraw_fb (s : State) : (s.endDraw).fb = s.fb := rfl
@[simp] theorem State.endDraw_keys (s : State) : (s.endDraw).keys = s.keys := rfl
@[simp] theorem State.endDraw_run (s : State) : (s.endDraw).run = s.run := rfl
@[simp] theorem State.endDraw_params (s : State) : (s.endDraw).params = s.params := rfl
@[simp] theorem State.endDraw_keyInputs (s : State) : (s.endDraw).keyInputs = s.keyInputs := rfl
@[simp] theorem State.endDraw_cycles (s : State) : (s.endDraw).cycles = s.cycles := rfl
@[simp] theorem State.endDraw_draws (s : State) : (s.endDraw).draws = s.draws := rfl
@[simp] theorem State.endDraw_getV (s : State) (q : Reg) : (s.endDraw).getV q = s.getV q := rfl
@[simp] theorem State.endDraw_lowNibble (s : State) (q : Reg) : (s.endDraw).lowNibble q = s.lowNibble q := rfl
@[simp] theorem State.endDraw_slot (s : State) (j : Fin 16) : (s.endDraw).slot j = s.slot j := rfl
@[simp] theorem State.endDraw_unlisted (s : State) : (s.endDraw).unlisted = s.unlisted := rfl
@[simp] theorem State.endDraw_byteAt (s : State) (c : Nat) : (s.endDraw).byteAt c = s.byteAt c := rfl
@[simp] theorem State.endDraw_memRead (s : State) (c : Nat) : (s.endDraw).memRead c = s.memRead c := rfl
@[simp] theorem State.endDraw_getPixel (s : State) (p : Fin 2048) : (s.endDraw).getPixel p = s.getPixel p := rfl
@[simp] theorem State.endDraw_key (s : State) (q : Reg) : (s.endDraw).key q = s.key q := rfl
@[simp] theorem State.endDraw_dataAddr (s : State) (c : Nat) : (s.endDraw).dataAddr c = s.dataAddr c := rfl

/-! `flipPixel` -/

@[simp] theorem State.flipPixel_pc (s : State) (k : Fin 2048) : (s.flipPixel k).pc = s.pc := by unfold State.flipPixel; split <;> rfl
@[simp] theorem State.flipPixel_i (s : State) (k : Fin 2048) : (s.flipPixel k).i = s.i := by unfold State.flipPixel; split <;> rfl
@[simp] theorem State.flipPixel_dt (s : State) (k : Fin 2048) : (s.flipPixel k).dt = s.dt := by unfold State.flipPixel; split <;> rfl
@[simp] theorem State.flipPixel_st (s : State) (k : Fin 2048) : (s.flipPixel k).st = s.st := by unfold State.flipPixel; split <;> rfl
@[simp] theorem State.flipPixel_sp (s : State) (k : Fin 2048) : (s.flipPixel k).sp = s.sp := by unfold State.flipPixel; split <;> rfl
@[simp] theorem State.flipPixel_stack (s : State) (k : Fin 2048) : (s.flipPixel k).stack = s.stack := by unfold State.flipPixel; split <;> rfl
@[simp] theorem State.flipPixel_mem (s : State) (k : Fin 2048) : (s.flipPixel k).mem = s.mem := by unfold State.flipPixel; split <;> rfl
@[simp] theorem State.flipPixel_keys (s : State) (k : Fin 2048) : (s.flipPixel k).keys = s.keys := by unfold State.flipPixel; split <;> rfl
@[simp] theorem State.flipPixel_run (s : State) (k : Fin 2048) : (s.flipPixel k).run = s.run := by unfold State.flipPixel; split <;> rfl
@[simp] theorem State.flipPixel_out (s : State) (k : Fin 2048) : (s.flipPixel k).out = s.out := by unfold State.flipPixel; split <;> rfl
@[simp] theorem State.flipPixel_params (s : State) (k : Fin 2048) : (s.flipPixel k).params = s.params := by unfold State.flipPixel; split <;> rfl
@[simp] theorem State.flipPixel_keyInputs (s : State) (k : Fin 2048) : (s.flipPixel k).keyInputs = s.keyInputs := by unfold State.flipPixel; split <;> rfl
@[simp] theorem State.flipPixel_cycles (s : State) (k : Fin 2048) : (s.flipPixel k).cycles = s.cycles := by unfold State.flipPixel; split <;> rfl
@[simp] theorem State.flipPixel_draws (s : State) (k : Fin 2048) : (s.flipPixel k).draws = s.draws := by unfold State.flipPixel; split <;> rfl
@[simp] theorem State.flipPixel_slot (s : State) (k : Fin 2048) (j : Fin 16) : (s.flipPixel k).slot j = s.slot j := by unfold State.flipPixel; split <;> rfl
@[simp] theorem State.flipPixel_unlisted (s : State) (k : Fin 2048) : (s.flipPixel k).unlisted = s.unlisted := by unfold State.flipPixel; split <;> rfl
@[simp] theorem State.flipPixel_byteAt (s : State) (k : Fin 2048) (c : Nat) : (s.flipPixel k).byteAt c = s.byteAt c := by unfold State.flipPixel; split <;> rfl
@[simp] theorem State.flipPixel_memRead (s : State) (k : Fin 2048) (c : Nat) : (s.flipPixel k).memRead c = s.memRead c := by unfold State.flipPixel; split <;> rfl
@[simp] theorem State.flipPixel_fetch (s : State) (k : Fin 2048) : (s.flipPixel k).fetch = s.fetch := by unfold State.flipPixel; split <;> rfl
@[simp] theorem State.flipPixel_key (s : State) (k : Fin 2048) (q : Reg) : (s.flipPixel k).key q = s.key q := by unfold State.flipPixel; split <;> rfl
@[simp] theorem State.flipPixel_dataAddr (s : State) (k : Fin 2048) (c : Nat) : (s.flipPixel k).dataAddr c = s.dataAddr c := by unfold State.flipPixel; split <;> rfl

/-! `presentKeys` -/

@[simp] theorem State.presentKeys_v (s : State) : (s.presentKeys).v = s.v := by unfold State.presentKeys; split <;> rfl
@[simp] theorem State.presentKeys_pc (s : State) : (s.presentKeys).pc = s.pc := by unfold State.presentKeys; split <;> rfl
@[simp] theorem State.presentKeys_i (s : State) : (s.presentKeys).i = s.i := by unfold State.presentKeys; split <;> rfl
@[simp] theorem State.presentKeys_dt (s : State) : (s.presentKeys).dt = s.dt := by unfold State.presentKeys; split <;> rfl
@[simp] theorem State.presentKeys_st (s : State) : (s.presentKeys).st = s.st := by unfold State.presentKeys; split <;> rfl
@[simp] theorem State.presentKeys_sp (s : State) : (s.presentKeys).sp = s.sp := by unfold State.presentKeys; split <;> rfl
@[simp] theorem State.presentKeys_stack (s : State) : (s.presentKeys).stack = s.stack := by unfold State.presentKeys; split <;> rfl
@[simp] theorem State.presentKeys_mem (s : State) : (s.presentKeys).mem = s.mem := by unfold State.presentKeys; split <;> rfl
@[simp] theorem State.presentKeys_fb (s : State) : (s.presentKeys).fb = s.fb := by unfold State.presentKeys; split <;> rfl
@[simp] theorem State.presentKeys_run (s : State) : (s.presentKeys).run = s.run := by unfold State.presentKeys; split <;> rfl
@[simp] theorem State.presentKeys_out (s : State) : (s.presentKeys).out = s.out := by unfold State.presentKeys; split <;> rfl
@[simp] theorem State.presentKeys_params (s : State) : (s.presentKeys).params = s.params := by unfold State.presentKeys; split <;> rfl
@[simp] theorem State.presentKeys_cycles (s : State) : (s.presentKeys).cycles = (s.cycles + 1) := by unfold State.presentKeys; split <;> rfl
@[simp] theorem State.presentKeys_draws (s : State) : (s.presentKeys).draws = s.draws := by unfold State.presentKeys; split <;> rfl
@[simp] theorem State.presentKeys_getV (s : State) (q : Reg) : (s.presentKeys).getV q = s.getV q := by unfold State.presentKeys; split <;> rfl
@[simp] theorem State.presentKeys_lowNibble (s : State) (q : Reg) : (s.presentKeys).lowNibble q = s.lowNibble q := by unfold State.presentKeys; split <;> rfl
@[simp] theorem State.presentKeys_slot (s : State) (j : Fin 16) : (s.presentKeys).slot j = s.slot j := by unfold State.presentKeys; split <;> rfl
@[simp] theorem State.presentKeys_unlisted (s : State) : (s.presentKeys).unlisted = s.unlisted := by unfold State.presentKeys; split <;> rfl
@[simp] theorem State.presentKeys_byteAt (s : State) (c : Nat) : (s.presentKeys).byteAt c = s.byteAt c := by unfold State.presentKeys; split <;> rfl
@[simp] theorem State.presentKeys_memRead (s : State) (c : Nat) : (s.presentKeys).memRead c = s.memRead c := by unfold State.presentKeys; split <;> rfl
@[simp] theorem State.presentKeys_fetch (s : State) : (s.presentKeys).fetch = s.fetch := by unfold State.presentKeys; split <;> rfl
@[simp] theorem State.presentKeys_getPixel (s : State) (p : Fin 2048) : (s.presentKeys).getPixel p = s.getPixel p := by unfold State.presentKeys; split <;> rfl
@[simp] theorem State.presentKeys_dataAddr (s : State) (c : Nat) : (s.presentKeys).dataAddr c = s.dataAddr c := by unfold State.presentKeys; split <;> rfl

/-! `beginCycle` -/

@[simp] theorem State.beginCycle_v (s : State) : (s.beginCycle).v = s.v := by simp [State.beginCycle]
@[simp] theorem State.beginCycle_pc (s : State) : (s.beginCycle).pc = s.pc := by simp [State.beginCycle]
@[simp] theorem State.beginCycle_i (s : State) : (s.beginCycle).i = s.i := by simp [State.beginCycle]
@[simp] theorem State.beginCycle_dt (s : State) : (s.beginCycle).dt = s.dt := by simp [State.beginCycle]
@[simp] theorem State.beginCycle_st (s : State) : (s.beginCycle).st = s.st := by simp [State.beginCycle]
@[simp] theorem State.beginCycle_sp (s : State) : (s.beginCycle).sp = s.sp := by simp [State.beginCycle]
@[simp] theorem State.beginCycle_stack (s : State) : (s.beginCycle).stack = s.stack := by simp [State.beginCycle]
@[simp] theorem State.beginCycle_mem (s : State) : (s.beginCycle).mem = s.mem := by simp [State.beginCycle]
@[simp] theorem State.beginCycle_fb (s : State) : (s.beginCycle).fb = s.fb := by simp [State.beginCycle]
@[simp] theorem State.beginCycle_run (s : State) : (s.beginCycle).run = s.run := by simp [State.beginCycle]
@[simp] theorem State.beginCycle_out (s : State) : (s.beginCycle).out = Outputs.none := by simp [State.beginCycle]
@[simp] theorem State.beginCycle_params (s : State) : (s.beginCycle).params = s.params := by simp [State.beginCycle]
@[simp] theorem State.beginCycle_cycles (s : State) : (s.beginCycle).cycles = (s.cycles + 1) := by simp [State.beginCycle]
@[simp] theorem State.beginCycle_draws (s : State) : (s.beginCycle).draws = s.draws := by simp [State.beginCycle]
@[simp] theorem State.beginCycle_getV (s : State) (q : Reg) : (s.beginCycle).getV q = s.getV q := by simp [State.beginCycle]
@[simp] theorem State.beginCycle_lowNibble (s : State) (q : Reg) : (s.beginCycle).lowNibble q = s.lowNibble q := by simp [State.beginCycle]
@[simp] theorem State.beginCycle_slot (s : State) (j : Fin 16) : (s.beginCycle).slot j = s.slot j := by simp [State.beginCycle]
@[simp] theorem State.beginCycle_unlisted (s : State) : (s.beginCycle).unlisted = s.unlisted := by simp [State.beginCycle]
@[simp] theorem State.beginCycle_byteAt (s : State) (c : Nat) : (s.beginCycle).byteAt c = s.byteAt c := by simp [State.beginCycle]
@[simp] theorem State.beginCycle_memRead (s : State) (c : Nat) : (s.beginCycle).memRead c = s.memRead c := by simp [State.beginCycle]
@[simp] theorem State.beginCycle_fetch (s : State) : (s.beginCycle).fetch = s.fetch := by simp [State.beginCycle]
@[simp] theorem State.beginCycle_getPixel (s : State) (p : Fin 2048) : (s.beginCycle).getPixel p = s.getPixel p := by simp [State.beginCycle]
@[simp] theorem State.beginCycle_dataAddr (s : State) (c : Nat) : (s.beginCycle).dataAddr c = s.dataAddr c := by simp [State.beginCycle]

end Sys2Proof.Machine
end

