-- ==== Sys2Proof/Laws/Memory.lean ====
section
/-! SUPPORT. Laws of memory: read after write, the canonical form, and that equal contents are equal data. -/

namespace Sys2Proof.Machine

variable {base : Nat → Byte} {m m' : Memory} {lo a c : Nat} {b : Byte}

theorem Memory.read_cons_of_ne {e : Host.Cell} (h : a ≠ e.1) : Memory.read base (e :: m) a = Memory.read base m a := by
  simp [Memory.read, h]

theorem Memory.read_mkCons : Memory.read base (Memory.cons base a b m) c =
    if c = a then (if b = base a then Memory.read base m c else b) else Memory.read base m c := by
  unfold Memory.cons
  split <;> by_cases h : c = a <;> simp [Memory.read, h]

theorem Memory.wfFrom_cons {e : Host.Cell} : Memory.wfFrom base lo (e :: m) = true ↔
    lo ≤ e.1 ∧ e.1 < memSize ∧ e.2 ≠ base e.1 ∧ Memory.wfFrom base (e.1 + 1) m = true := by
  simp [Memory.wfFrom, and_assoc]

theorem Memory.wfFrom_mono {lo' : Nat} (hlo : lo' ≤ lo) (h : Memory.wfFrom base lo m = true) :
    Memory.wfFrom base lo' m = true := by
  cases m with
  | nil => rfl
  | cons e m =>
    rw [Memory.wfFrom_cons] at h ⊢
    exact ⟨by omega, h.2⟩

/-- Below the listed addresses a memory reads as unlisted. -/
theorem Memory.read_below (h : Memory.wfFrom base lo m = true) (ha : a < lo) : Memory.read base m a = base a := by
  induction m generalizing lo with
  | nil => rfl
  | cons e m ih =>
    rw [Memory.wfFrom_cons] at h
    rw [Memory.read_cons_of_ne (by omega)]
    exact ih h.2.2.2 (by omega)

theorem Memory.wfFrom_mkCons (ha : lo ≤ a) (hs : a < memSize) (h : Memory.wfFrom base (a + 1) m = true) :
    Memory.wfFrom base lo (Memory.cons base a b m) = true := by
  unfold Memory.cons
  split
  · exact Memory.wfFrom_mono (by omega) h
  · exact Memory.wfFrom_cons.2 ⟨ha, hs, ‹_›, h⟩

/-- A write keeps the canonical form. -/
theorem Memory.wfFrom_write (h : Memory.wfFrom base lo m = true) (ha : lo ≤ a) (hs : a < memSize) :
    Memory.wfFrom base lo (Memory.write base m a b) = true := by
  induction m generalizing lo with
  | nil => exact Memory.wfFrom_mkCons ha hs rfl
  | cons e m ih =>
    rw [Memory.wfFrom_cons] at h
    simp only [Memory.write]
    split
    · exact Memory.wfFrom_mkCons ha hs (Memory.wfFrom_cons.2 ⟨by omega, h.2⟩)
    · split
      · subst a; exact Memory.wfFrom_mkCons ha hs h.2.2.2
      · exact Memory.wfFrom_cons.2 ⟨h.1, h.2.1, h.2.2.1, ih h.2.2.2 (by omega)⟩

/-- Reading the byte just written. -/
theorem Memory.read_write_same (h : Memory.wfFrom base lo m = true) : Memory.read base (Memory.write base m a b) a = b := by
  induction m generalizing lo with
  | nil =>
    rw [Memory.write, Memory.read_mkCons, if_pos rfl]
    split_ifs with hb
    · exact hb.symm
    · rfl
  | cons e m ih =>
    have h' := Memory.wfFrom_cons.1 h
    simp only [Memory.write]
    split
    · rw [Memory.read_mkCons, if_pos rfl]
      split_ifs with hb
      · rw [Memory.read_below (Memory.wfFrom_cons.2 ⟨le_refl _, h'.2⟩) ‹a < e.1›, hb]
      · rfl
    · split
      · rw [Memory.read_mkCons, if_pos rfl]
        split_ifs with hb
        · rw [Memory.read_below h'.2.2.2 (by omega), hb]
        · rfl
      · rw [Memory.read_cons_of_ne ‹_›]
        exact ih h'.2.2.2

/-- Reading any other byte. -/
theorem Memory.read_write_ne (hc : c ≠ a) : Memory.read base (Memory.write base m a b) c = Memory.read base m c := by
  induction m with
  | nil => simp [Memory.write, Memory.read_mkCons, hc]
  | cons e m ih =>
    simp only [Memory.write]
    split
    · simp [Memory.read_mkCons, hc]
    · split
      · rw [Memory.read_mkCons, if_neg hc, Memory.read_cons_of_ne (by omega)]
      · by_cases he : c = e.1
        · simp [Memory.read, he]
        · rw [Memory.read_cons_of_ne he, Memory.read_cons_of_ne he, ih]

/-- Two canonical memories that read the same everywhere are the same list. -/
theorem Memory.eq_of_read_eq {lo' : Nat} (h : Memory.wfFrom base lo m = true) (h' : Memory.wfFrom base lo' m' = true)
    (heq : ∀ a, Memory.read base m a = Memory.read base m' a) : m = m' := by
  induction m generalizing lo lo' m' with
  | nil =>
    cases m' with
    | nil => rfl
    | cons e' m' =>
      rw [Memory.wfFrom_cons] at h'
      exact absurd (by simpa [Memory.read] using (heq e'.1).symm) h'.2.2.1
  | cons e m ih =>
    have he := Memory.wfFrom_cons.1 h
    cases m' with
    | nil => exact absurd (by simpa [Memory.read] using heq e.1) he.2.2.1
    | cons e' m' =>
      have he' := Memory.wfFrom_cons.1 h'
      have hkey : e.1 = e'.1 := by
        rcases lt_trichotomy e.1 e'.1 with hlt | heq' | hgt
        · have := heq e.1
          rw [Memory.read_below (Memory.wfFrom_cons.2 ⟨le_refl _, he'.2⟩) hlt] at this
          exact absurd (by simpa [Memory.read] using this) he.2.2.1
        · exact heq'
        · have := heq e'.1
          rw [Memory.read_below (Memory.wfFrom_cons.2 ⟨le_refl _, he.2⟩) hgt] at this
          exact absurd (by simpa [Memory.read] using this.symm) he'.2.2.1
      have hval : e.2 = e'.2 := by simpa [Memory.read, hkey] using heq e.1
      have hcell : e = e' := Prod.ext hkey hval
      subst hcell
      congr 1
      refine ih he.2.2.2 he'.2.2.2 fun a => ?_
      by_cases ha : a = e.1
      · subst ha
        rw [Memory.read_below he.2.2.2 (Nat.lt_succ_self _), Memory.read_below he'.2.2.2 (Nat.lt_succ_self _)]
      · simpa [Memory.read, ha] using heq a

/-! ## The same laws on the state -/

theorem State.byteAt_poke_same {s : State} (h : s.MemWf) (a : Nat) (b : Byte) : (s.poke a b).byteAt a = b :=
  Memory.read_write_same h

theorem State.byteAt_poke_ne (s : State) {a c : Nat} (b : Byte) (hc : c ≠ a) : (s.poke a b).byteAt c = s.byteAt c :=
  Memory.read_write_ne hc

/-- A store keeps the canonical form. -/
theorem State.poke_memWf {s : State} (h : s.MemWf) {a : Nat} (b : Byte) (ha : a < memSize) : (s.poke a b).MemWf :=
  Memory.wfFrom_write h (Nat.zero_le _) ha

/-- An operation that writes neither memory nor the parameters keeps the canonical form. -/
theorem State.MemWf.of_fields {s t : State} (h : s.MemWf) (hm : t.mem = s.mem) (hp : t.params = s.params) : t.MemWf := by
  unfold State.MemWf State.unlisted
  rw [hm, hp]
  exact h

/-- A checked store keeps the canonical form. -/
theorem State.memWrite_memWf {s t : State} (h : s.MemWf) {a : Nat} {b : Byte} (hw : s.memWrite a b = some t) : t.MemWf := by
  unfold State.memWrite at hw
  split at hw
  · exact Option.some.inj hw ▸ State.poke_memWf h b ‹_›
  · cases hw

/-- Two states with canonical memories over the same parameters and the same bytes have the same memory. -/
theorem State.mem_eq_of_byteAt {s t : State} (h : s.MemWf) (h' : t.MemWf) (hp : t.params = s.params)
    (heq : ∀ a, t.byteAt a = s.byteAt a) : t.mem = s.mem := by
  unfold State.MemWf State.unlisted at h h'
  simp only [State.byteAt, State.unlisted, hp] at heq
  rw [hp] at h'
  exact Memory.eq_of_read_eq h' h heq

theorem State.reset_memWf (p : Params) : (State.resetWith p).MemWf := rfl

end Sys2Proof.Machine
end

