-- ==== Sys2Proof/Laws/Regs.lean ====
section
/-! SUPPORT. Laws of the registers, the framebuffer cells, the stack, the key table and the operand forms. -/

namespace Sys2Proof.Machine

/-! ## General registers -/

theorem State.getV_setV (s : State) (r q : Reg) (b : Byte) :
    (s.setV r b).getV q = if q = r then b else s.getV q := by
  simp only [State.getV, State.setV, Fin.getElem_fin, Vector.getElem_set, Fin.ext_iff, eq_comm]

@[simp] theorem State.getV_setV_same (s : State) (r : Reg) (b : Byte) : (s.setV r b).getV r = b := by
  simp [State.getV_setV]

@[simp] theorem State.getV_setV_ne (s : State) {r q : Reg} (b : Byte) (h : q ≠ r) : (s.setV r b).getV q = s.getV q := by
  simp [State.getV_setV, h]

theorem State.getV_setFlag (s : State) (q : Reg) (b : Byte) :
    (s.setFlag b).getV q = if q = VF then b else s.getV q := State.getV_setV s VF q b

theorem State.getV_takeDraw (s : State) (x q : Reg) (n b : Byte) :
    (s.takeDraw x n b).getV q = if q = x then b &&& n else s.getV q := State.getV_setV s x q _

@[simp] theorem State.getV_resetWith (p : Params) (r : Reg) : (State.resetWith p).getV r = 0#8 := by
  simp [State.getV, State.resetWith]

/-! ## Framebuffer cells -/

theorem State.getPixel_setPixel (s : State) (k j : Fin 2048) (p : Pixel) :
    (s.setPixel k p).getPixel j = if j = k then p else s.getPixel j := by
  have hk := k.isLt
  have hj := j.isLt
  by_cases hrow : k.val / 64 = j.val / 64
  · by_cases hcol : k.val % 64 = j.val % 64
    · have : j = k := Fin.ext (by omega)
      subst this
      simp [State.getPixel, State.setPixel]
    · have : j ≠ k := fun h => hcol (by rw [h])
      simp [State.getPixel, State.setPixel, hrow, this, hcol]
  · have : j ≠ k := fun h => hrow (by rw [h])
    simp [State.getPixel, State.setPixel, hrow, this]

@[simp] theorem State.getPixel_clearFb (s : State) (k : Fin 2048) : s.clearFb.getPixel k = 0#1 := by
  simp [State.getPixel, State.clearFb, clearFramebuffer]

@[simp] theorem State.getPixel_resetWith (p : Params) (k : Fin 2048) : (State.resetWith p).getPixel k = 0#1 := by
  simp [State.getPixel, State.resetWith, clearFramebuffer]

theorem State.getPixel_flipPixel (s : State) (k j : Fin 2048) :
    (s.flipPixel k).getPixel j = if j = k then s.getPixel k ^^^ 1#1 else s.getPixel j := by
  unfold State.flipPixel
  split <;> simp [State.getPixel_setPixel]

theorem State.getV_flipPixel (s : State) (k : Fin 2048) (q : Reg) :
    (s.flipPixel k).getV q = if q = VF ∧ s.getPixel k = 1#1 then 1#8 else s.getV q := by
  unfold State.flipPixel
  split <;> rename_i h <;> simp [State.getV_setV, h]

/-! ## Call stack -/

/-- Everything a push can do. -/
theorem State.push_eq_some {s t : State} {w : Word} (h : s.push w = some t) :
    s.sp.val < 16 ∧ t.sp.val = s.sp.val + 1 ∧
      (∀ k : Fin 16, t.slot k = if k.val = s.sp.val then w else s.slot k) ∧
      t = { s with sp := t.sp, stack := t.stack } := by
  unfold State.push at h
  split at h
  · rename_i hsp
    obtain rfl := (Option.some.inj h).symm
    refine ⟨hsp, rfl, fun k => ?_, rfl⟩
    simp only [State.slot, Fin.getElem_fin, Vector.getElem_set, eq_comm]
  · cases h

theorem State.push_eq_none {s : State} {w : Word} : s.push w = none ↔ s.sp.val = 16 := by
  have := s.sp.isLt
  unfold State.push
  split <;> simp <;> omega

/-- Everything a pop can do. -/
theorem State.pop_eq_some {s t : State} {w : Word} (h : s.pop = some (w, t)) :
    0 < s.sp.val ∧ t.sp.val = s.sp.val - 1 ∧ (∀ k : Fin 16, k.val = s.sp.val - 1 → w = s.slot k) ∧
      t = { s with sp := t.sp } := by
  unfold State.pop at h
  split at h
  · cases h
  · rename_i hsp
    obtain ⟨rfl, rfl⟩ := (Prod.mk.injEq ..).mp (Option.some.inj h)
    refine ⟨by omega, rfl, fun k hk => ?_, rfl⟩
    simp [State.slot, hk]

theorem State.pop_eq_none {s : State} : s.pop = none ↔ s.sp.val = 0 := by
  unfold State.pop
  split <;> simp_all

/-! ## Key table -/

theorem State.key_writeKey (s : State) (k j : Reg) (d : Bool) :
    (s.writeKey k d).key j = if j = k then d else s.key j := by
  have := j.isLt
  have := k.isLt
  by_cases h : j = k
  · subst h
    cases d <;> simp [State.key, State.writeKey]
  · have hne : ¬ (j.val - k.val = 0 ∧ ¬ j.val < k.val) := fun hh => h (Fin.ext (by omega))
    cases d <;> simp [State.key, State.writeKey, h] <;> omega

/-! ## Operand forms -/

@[simp] theorem mem_allRegs (r : Reg) : r ∈ allRegs := by revert r; decide

theorem length_regsUpTo (x : Reg) : (regsUpTo x).length = x.val + 1 := by revert x; decide

theorem getElem?_regsUpTo (x k : Reg) : (regsUpTo x)[k.val]? = if k ≤ x then some k else none := by
  revert x k; decide

theorem mem_regsUpTo (x r : Reg) : r ∈ regsUpTo x ↔ r ≤ x := by revert x r; decide

theorem State.getElem?_valuesUpTo (s : State) (x k : Reg) :
    (s.valuesUpTo x)[k.val]? = if k ≤ x then some (s.getV k) else none := by
  rw [State.valuesUpTo, List.getElem?_map, getElem?_regsUpTo]
  split <;> rfl

theorem nodup_regsUpTo (x : Reg) : (regsUpTo x).Nodup := by revert x; decide

theorem State.lowNibble_val (s : State) (x : Reg) : (s.lowNibble x).val = (s.getV x).toNat % 16 := by
  simp [State.lowNibble]

/-- Everything the least pressed key can be. -/
theorem leastKey_eq_some {m : KeyVector} {k : Reg} (h : leastKey m = some k) :
    m.getLsbD k.val = true ∧ ∀ j : Reg, j < k → m.getLsbD j.val = false := by
  have hsorted : ∀ l : List Reg, l.Pairwise (· < ·) → l.find? (fun k => m.getLsbD k.val) = some k →
      ∀ j ∈ l, j < k → m.getLsbD j.val = false := by
    intro l hl hf j hj hlt
    induction l with
    | nil => cases hj
    | cons a l ih =>
      rw [List.pairwise_cons] at hl
      rw [List.find?_cons] at hf
      split at hf
      · obtain rfl := Option.some.inj hf
        rcases List.mem_cons.1 hj with rfl | hj
        · exact absurd hlt (lt_irrefl _)
        · exact absurd (hl.1 j hj) (not_lt.2 hlt.le)
      · rcases List.mem_cons.1 hj with rfl | hj
        · assumption
        · exact ih hl.2 hf hj
  exact ⟨List.find?_some (p := fun k : Reg => m.getLsbD k.val) h, fun j hj => hsorted allRegs (by decide) h j (mem_allRegs j) hj⟩

theorem leastKey_eq_none {m : KeyVector} : leastKey m = none ↔ ∀ k : Reg, m.getLsbD k.val = false := by
  simp [leastKey]

theorem getLsbD_newlyPressed (prev now : KeyVector) (k : Reg) :
    (newlyPressed prev now).getLsbD k.val = (now.getLsbD k.val && !prev.getLsbD k.val) := by
  simp [newlyPressed]

/-- Cells of one sprite never coincide (R107). -/
theorem cellIndex_inj {x0 y0 col row col' row' : Nat} (hc : col < 8) (hr : row < 16) (hc' : col' < 8) (hr' : row' < 16)
    (h : cellIndex (x0 + col) (y0 + row) = cellIndex (x0 + col') (y0 + row')) : col = col' ∧ row = row' := by
  have := congrArg Fin.val h
  simp only [cellIndex] at this
  omega

end Sys2Proof.Machine
end

