-- ==== Sys2Proof/Laws/Ops.lean ====
section
/-! SUPPORT. Laws of the shared operations: one lemma for each that says everything it can do. -/

namespace Sys2Proof.Machine

/-! ## Single accesses -/

theorem State.memRead_eq (s : State) (a : Nat) : s.memRead a = if a < memSize then some (s.byteAt a) else none := rfl

theorem State.memWrite_eq (s : State) (a : Nat) (b : Byte) :
    s.memWrite a b = if a < memSize then some (s.poke a b) else none := rfl

/-! ## Copying bytes -/

theorem State.copyBytes_eq (bs : List Byte) (a : Nat) (s : State) :
    State.copyBytes bs a s = { s with mem := (State.copyBytes bs a s).mem } := by
  induction bs generalizing a s with
  | nil => rfl
  | cons b bs ih => rw [State.copyBytes, ih]; rfl

theorem State.copyBytes_memWf {bs : List Byte} {a : Nat} {s : State} (h : s.MemWf) (ha : a + bs.length ≤ memSize) :
    (State.copyBytes bs a s).MemWf := by
  induction bs generalizing a s with
  | nil => exact h
  | cons b bs ih =>
    rw [List.length_cons] at ha
    exact ih (State.poke_memWf h b (by omega)) (by omega)

/-- The part of a sequence of bytes that lies in memory. -/
theorem State.copyBytes_take_memWf {bs : List Byte} {a : Nat} {s : State} (h : s.MemWf) :
    (State.copyBytes (bs.take (memSize - a)) a s).MemWf := by
  by_cases ha : a ≤ memSize
  · exact State.copyBytes_memWf h (by rw [List.length_take]; omega)
  · rw [show memSize - a = 0 by omega, List.take_zero]
    exact h

theorem State.byteAt_copyBytes_out (bs : List Byte) {a c : Nat} (s : State) (hc : c < a ∨ a + bs.length ≤ c) :
    (State.copyBytes bs a s).byteAt c = s.byteAt c := by
  induction bs generalizing a s with
  | nil => rfl
  | cons b bs ih =>
    rw [List.length_cons] at hc
    rw [State.copyBytes, ih (s.poke a b) (by omega), State.byteAt_poke_ne s b (by omega)]

theorem State.byteAt_copyBytes_in {bs : List Byte} {a j : Nat} {s : State} (h : s.MemWf)
    (ha : a + bs.length ≤ memSize) (hj : j < bs.length) : (State.copyBytes bs a s).byteAt (a + j) = bs[j] := by
  induction bs generalizing a j s with
  | nil => exact absurd hj (Nat.not_lt_zero _)
  | cons b bs ih =>
    rw [List.length_cons] at ha hj
    cases j with
    | zero =>
      rw [State.copyBytes, State.byteAt_copyBytes_out bs _ (by omega), Nat.add_zero, State.byteAt_poke_same h]
      rfl
    | succ j =>
      rw [State.copyBytes, show a + (j + 1) = a + 1 + j by omega,
        ih (State.poke_memWf h b (by omega)) (by omega) (by omega)]
      rfl

/-- Everything a sequence of stores does: all of it where it fits, else the part below 0x1000 and OutOfBounds there. -/
theorem State.storeBytes_eq (bs : List Byte) (a : Nat) (s : State) :
    State.storeBytes bs a s =
      if bs.length ≤ memSize - a then .done (State.copyBytes bs a s)
      else .stopped (.outOfBounds (a + (memSize - a))) (State.copyBytes (bs.take (memSize - a)) a s) := by
  induction bs generalizing a s with
  | nil => simp [State.storeBytes, State.copyBytes]
  | cons b bs ih =>
    rw [State.storeBytes, State.memWrite_eq]
    by_cases ha : a < memSize
    · rw [if_pos ha]
      simp only [ih, List.length_cons]
      obtain ⟨d, hd⟩ : ∃ d, memSize - a = d + 1 := ⟨memSize - a - 1, by omega⟩
      rw [show memSize - (a + 1) = d by omega, hd]
      simp only [List.take_succ_cons, State.copyBytes, Nat.add_le_add_iff_right]
      rw [show a + 1 + d = a + (d + 1) by omega]
    · rw [if_neg ha, show memSize - a = 0 by omega]
      simp [State.copyBytes]

/-! ## Loading registers -/

/-- The registers of a list loaded from ascending addresses, no access checked. -/
def State.loaded : List Reg → Nat → State → State
  | [], _, s => s
  | r :: rs, a, s => State.loaded rs (a + 1) (s.setV r (s.byteAt a))

theorem State.loaded_eq (rs : List Reg) (a : Nat) (s : State) :
    State.loaded rs a s = { s with v := (State.loaded rs a s).v } := by
  induction rs generalizing a s with
  | nil => rfl
  | cons r rs ih => rw [State.loaded, ih]; rfl

theorem State.byteAt_loaded (rs : List Reg) (a c : Nat) (s : State) : (State.loaded rs a s).byteAt c = s.byteAt c := by
  rw [State.loaded_eq]; rfl

theorem State.getV_loaded_out {rs : List Reg} {a : Nat} {s : State} {q : Reg} (h : q ∉ rs) :
    (State.loaded rs a s).getV q = s.getV q := by
  induction rs generalizing a s with
  | nil => rfl
  | cons r rs ih =>
    rw [List.mem_cons, not_or] at h
    rw [State.loaded, ih h.2, State.getV_setV_ne s _ h.1]

theorem State.getV_loaded_in {rs : List Reg} {a j : Nat} {s : State} {q : Reg} (hn : rs.Nodup) (h : rs[j]? = some q) :
    (State.loaded rs a s).getV q = s.byteAt (a + j) := by
  induction rs generalizing a j s with
  | nil => simp at h
  | cons r rs ih =>
    rw [List.nodup_cons] at hn
    cases j with
    | zero =>
      obtain rfl : r = q := by simpa using h
      rw [State.loaded, State.getV_loaded_out hn.1, State.getV_setV_same, Nat.add_zero]
    | succ j =>
      rw [State.loaded, ih hn.2 (by simpa using h), show a + 1 + j = a + (j + 1) by omega]
      rfl

/-- Everything a sequence of loads does: all of it where it fits, else the part below 0x1000 and OutOfBounds there. -/
theorem State.loadRegs_eq (rs : List Reg) (a : Nat) (s : State) :
    State.loadRegs rs a s =
      if rs.length ≤ memSize - a then .done (State.loaded rs a s)
      else .stopped (.outOfBounds (a + (memSize - a))) (State.loaded (rs.take (memSize - a)) a s) := by
  induction rs generalizing a s with
  | nil => simp [State.loadRegs, State.loaded]
  | cons r rs ih =>
    rw [State.loadRegs, State.memRead_eq]
    by_cases ha : a < memSize
    · rw [if_pos ha]
      simp only [ih, List.length_cons]
      obtain ⟨d, hd⟩ : ∃ d, memSize - a = d + 1 := ⟨memSize - a - 1, by omega⟩
      rw [show memSize - (a + 1) = d by omega, hd]
      simp only [List.take_succ_cons, State.loaded, Nat.add_le_add_iff_right]
      rw [show a + 1 + d = a + (d + 1) by omega]
    · rw [if_neg ha, show memSize - a = 0 by omega]
      simp [State.loaded]

/-- V0 to Vx loaded, or the first `m` of them. -/
theorem State.getV_loaded_take (x q : Reg) (m a : Nat) (s : State) :
    (State.loaded ((regsUpTo x).take m) a s).getV q =
      if q ≤ x ∧ q.val < m then s.byteAt (a + q.val) else s.getV q := by
  by_cases h : q ≤ x ∧ q.val < m
  · rw [if_pos h]
    refine State.getV_loaded_in ((nodup_regsUpTo x).sublist (List.take_sublist _ _)) ?_
    rw [List.getElem?_take, if_pos h.2, getElem?_regsUpTo, if_pos h.1]
  · rw [if_neg h]
    refine State.getV_loaded_out fun hq => h ?_
    obtain ⟨j, hj⟩ := List.mem_iff_getElem?.1 hq
    rw [List.getElem?_take] at hj
    split at hj
    · have hlen : j < 16 := by
        have := (List.getElem?_eq_some_iff.1 hj).1
        rw [length_regsUpTo] at this
        omega
      have := getElem?_regsUpTo x ⟨j, hlen⟩
      simp only at this
      rw [hj] at this
      split at this
      · cases this; exact ⟨‹_›, ‹_›⟩
      · cases this
    · cases hj

/-! ## Drawing -/

/-- Flip a list of cells, in order. -/
def State.flips (s : State) (ks : List (Fin 2048)) : State := ks.foldl State.flipPixel s

theorem State.flips_eq (s : State) (ks : List (Fin 2048)) :
    s.flips ks = { s with v := (s.flips ks).v, fb := (s.flips ks).fb } := by
  induction ks generalizing s with
  | nil => rfl
  | cons k ks ih =>
    have : s.flips (k :: ks) = (s.flipPixel k).flips ks := rfl
    rw [this, ih]
    simp

theorem State.getPixel_flips {s : State} {ks : List (Fin 2048)} (hn : ks.Nodup) (j : Fin 2048) :
    (s.flips ks).getPixel j = if j ∈ ks then s.getPixel j ^^^ 1#1 else s.getPixel j := by
  induction ks generalizing s with
  | nil => simp [State.flips]
  | cons k ks ih =>
    rw [List.nodup_cons] at hn
    have : s.flips (k :: ks) = (s.flipPixel k).flips ks := rfl
    rw [this, ih hn.2]
    by_cases h : j = k
    · subst h; simp [hn.1, State.getPixel_flipPixel]
    · simp [State.getPixel_flipPixel, h]

theorem State.getV_flips {s : State} {ks : List (Fin 2048)} (hn : ks.Nodup) (q : Reg) :
    (s.flips ks).getV q = if q = VF ∧ ∃ k ∈ ks, s.getPixel k = 1#1 then 1#8 else s.getV q := by
  induction ks generalizing s with
  | nil => simp [State.flips]
  | cons k ks ih =>
    rw [List.nodup_cons] at hn
    have : s.flips (k :: ks) = (s.flipPixel k).flips ks := rfl
    rw [this, ih hn.2]
    have hcongr : (∃ j ∈ ks, (s.flipPixel k).getPixel j = 1#1) ↔ ∃ j ∈ ks, s.getPixel j = 1#1 := by
      refine exists_congr fun j => and_congr_right fun hj => ?_
      rw [State.getPixel_flipPixel, if_neg (fun h : j = k => hn.1 (h ▸ hj))]
    by_cases hq : q = VF
    · by_cases hk : s.getPixel k = 1#1 <;> simp [State.getV_flipPixel, hcongr, hq, hk]
    · simp [State.getV_flipPixel, hq]

/-- The cells under the set bits of one sprite row, for the given columns. -/
def rowCells (x0 y : Nat) (sprite : Byte) (cols : List Nat) : List (Fin 2048) :=
  (cols.filter fun col => sprite.getLsbD (7 - col)).map fun col => cellIndex (x0 + col) y

theorem State.drawRow_eq (x0 y : Nat) (sprite : Byte) (cols : List Nat) (s : State) :
    State.drawRow x0 y sprite cols s = s.flips (rowCells x0 y sprite cols) := by
  induction cols generalizing s with
  | nil => rfl
  | cons col cols ih =>
    rw [State.drawRow, ih]
    unfold rowCells
    rw [List.filter_cons]
    by_cases h : sprite.getLsbD (7 - col) = true
    · rw [if_pos h, if_pos h]; rfl
    · rw [if_neg h, if_neg h]

/-- The cells under the set bits of `count` sprite rows from `row` on. -/
def State.spriteCells (s : State) (x0 y0 : Nat) : (count row : Nat) → List (Fin 2048)
  | 0, _ => []
  | count + 1, row =>
    rowCells x0 (y0 + row) (s.byteAt (s.i.toNat + row)) spriteCols ++ State.spriteCells s x0 y0 count (row + 1)

theorem State.spriteCells_congr {s t : State} (hi : t.i = s.i) (hb : ∀ a, t.byteAt a = s.byteAt a) (x0 y0 count row : Nat) :
    t.spriteCells x0 y0 count row = s.spriteCells x0 y0 count row := by
  induction count generalizing row with
  | zero => rfl
  | succ count ih => simp only [State.spriteCells, hi, hb, ih]

theorem State.mem_spriteCells {s : State} {x0 y0 count row : Nat} {k : Fin 2048} :
    k ∈ s.spriteCells x0 y0 count row ↔ ∃ r < count, ∃ col < 8,
      (s.byteAt (s.i.toNat + (row + r))).getLsbD (7 - col) = true ∧ cellIndex (x0 + col) (y0 + (row + r)) = k := by
  induction count generalizing row with
  | zero => simp [State.spriteCells]
  | succ count ih =>
    have hcols : ∀ col, col ∈ spriteCols ↔ col < 8 := by
      intro col
      simp only [spriteCols, List.mem_cons, List.not_mem_nil, or_false]
      omega
    rw [State.spriteCells, List.mem_append, ih, rowCells, List.mem_map]
    simp only [List.mem_filter, hcols]
    constructor
    · rintro (⟨col, ⟨hc, hbit⟩, hk⟩ | ⟨r, hr, col, hc, hbit, hk⟩)
      · exact ⟨0, by omega, col, hc, hbit, hk⟩
      · exact ⟨r + 1, by omega, col, hc, by rwa [show row + (r + 1) = row + 1 + r by omega],
          by rwa [show row + (r + 1) = row + 1 + r by omega]⟩
    · rintro ⟨r, hr, col, hc, hbit, hk⟩
      cases r with
      | zero => exact .inl ⟨col, ⟨hc, hbit⟩, hk⟩
      | succ r =>
        exact .inr ⟨r, by omega, col, hc, by rwa [show row + 1 + r = row + (r + 1) by omega],
          by rwa [show row + 1 + r = row + (r + 1) by omega]⟩

theorem State.nodup_spriteCells (s : State) (x0 y0 : Nat) {count row : Nat} (h : row + count ≤ 16) :
    (s.spriteCells x0 y0 count row).Nodup := by
  induction count generalizing row with
  | zero => exact List.nodup_nil
  | succ count ih =>
    refine List.Nodup.append ?_ (ih (by omega)) ?_
    · refine List.Nodup.map_on ?_ (List.Nodup.filter _ (by decide))
      intro a ha b hb hab
      have hlt : ∀ c ∈ spriteCols, c < 8 := by decide
      exact (cellIndex_inj (hlt a (List.mem_filter.1 ha).1) (by omega) (hlt b (List.mem_filter.1 hb).1) (by omega) hab).1
    · intro k hk hk'
      obtain ⟨r, hr, col, hc, -, hkr⟩ := State.mem_spriteCells.1 hk'
      obtain ⟨col', hc', hkc⟩ := List.mem_map.1 hk
      have hlt : ∀ c ∈ spriteCols, c < 8 := by decide
      have := (cellIndex_inj (hlt col' (List.mem_filter.1 hc').1) (by omega) hc (by omega) (hkc.trans hkr.symm)).2
      omega

/-- Everything the rows of a sprite do: all drawn where their bytes exist, else those below 0x1000 and OutOfBounds there. -/
theorem State.drawRows_eq (x0 y0 count row : Nat) (s : State) :
    State.drawRows x0 y0 count row s =
      if count ≤ memSize - (s.i.toNat + row) then .done (s.flips (s.spriteCells x0 y0 count row))
      else .stopped (.outOfBounds (s.i.toNat + row + (memSize - (s.i.toNat + row))))
        (s.flips (s.spriteCells x0 y0 (memSize - (s.i.toNat + row)) row)) := by
  induction count generalizing row s with
  | zero => simp [State.drawRows, State.spriteCells, State.flips]
  | succ count ih =>
    rw [State.drawRows, State.memRead_eq]
    by_cases ha : s.i.toNat + row < memSize
    · rw [if_pos ha]
      simp only [ih, State.drawRow_eq]
      obtain ⟨d, hd⟩ : ∃ d, memSize - (s.i.toNat + row) = d + 1 := ⟨memSize - (s.i.toNat + row) - 1, by omega⟩
      have hi : (s.flips (rowCells x0 (y0 + row) (s.byteAt (s.i.toNat + row)) spriteCols)).i = s.i := by
        rw [State.flips_eq]
      have hb : ∀ a, (s.flips (rowCells x0 (y0 + row) (s.byteAt (s.i.toNat + row)) spriteCols)).byteAt a = s.byteAt a := by
        intro a; rw [State.flips_eq]; rfl
      rw [hi]
      simp only [State.spriteCells_congr hi hb]
      rw [show memSize - (s.i.toNat + (row + 1)) = d by omega, hd]
      simp only [Nat.add_le_add_iff_right, State.spriteCells, State.flips, List.foldl_append]
      rw [show s.i.toNat + (row + 1) + d = s.i.toNat + row + (d + 1) by omega]
    · rw [if_neg ha, show memSize - (s.i.toNat + row) = 0 by omega]
      simp [State.spriteCells, State.flips]

/-! ## Fetch -/

/-- Everything the fetch can give (R62). -/
theorem State.fetch_eq (s : State) :
    s.fetch =
      if s.pc.toNat + 1 < memSize then .word (wordOfBytes (s.byteAt s.pc.toNat) (s.byteAt (s.pc.toNat + 1)))
      else .stopped (.outOfBounds (max s.pc.toNat memSize)) := by
  unfold State.fetch
  simp only [State.memRead_eq]
  by_cases h : s.pc.toNat < memSize
  · by_cases h1 : s.pc.toNat + 1 < memSize
    · simp [h, h1]
    · simp only [h, h1, if_true, if_false]
      rw [show max s.pc.toNat memSize = s.pc.toNat + 1 by omega]
  · have h1 : ¬ s.pc.toNat + 1 < memSize := by omega
    simp only [h, h1, if_false]
    rw [show max s.pc.toNat memSize = s.pc.toNat by omega]

theorem State.fetch_word_bound {s : State} {op : Word} (h : s.fetch = .word op) : s.pc.toNat + 1 < memSize := by
  rw [State.fetch_eq] at h
  split at h
  · assumption
  · cases h

/-- The fetch at a given pc where both bytes exist. -/
theorem State.fetch_setPc (s : State) {w : Word} (h : w.toNat + 1 < memSize) :
    (s.setPc w).fetch = .word (wordOfBytes (s.byteAt w.toNat) (s.byteAt (w.toNat + 1))) := by
  rw [State.fetch_eq, State.setPc_pc, if_pos h, State.setPc_byteAt, State.setPc_byteAt]

/-! ## The cycle around an instruction -/

/-- Everything `finish` can answer. -/
theorem Progress.finish_next (p : Progress) (k : State → State) :
    (∃ s, p = .done s ∧ p.finish k = .next (k s)) ∨ (∃ c s, p = .stopped c s ∧ p.finish k = .next (s.raise c)) := by
  cases p with
  | done s => exact .inl ⟨s, rfl, rfl⟩
  | stopped c s => exact .inr ⟨c, s, rfl, rfl⟩

theorem State.endCycle_of_halted {s : State} {e : ErrorRecord} (h : s.run = .halted e) : s.endCycle = s := by
  simp [State.endCycle, h]

theorem State.endCycle_of_not_halted {s : State} (h : s.isHalted = false) : s.endCycle = s.tick := by
  unfold State.endCycle
  unfold State.isHalted at h
  split <;> simp_all

@[simp] theorem endCycleOf_next (s : State) : endCycleOf (.next s) = .next s.endCycle := rfl

theorem State.isHalted_iff {s : State} : s.isHalted = true ↔ ∃ e, s.run = .halted e := by
  unfold State.isHalted
  split <;> simp_all

theorem step_running {s : State} (h : s.run = .running) : step s = endCycleOf (runInstruction s.beginCycle) := by
  simp [step, h]

theorem step_waiting {s : State} {x : Reg} {p : KeyVector} (h : s.run = .waitingForKey x p) :
    step s = .next (s.beginCycle.waitStep x p).endCycle := by
  simp [step, h]

theorem step_halted {s : State} {e : ErrorRecord} (h : s.run = .halted e) : step s = .next s := by
  simp [step, h]

theorem runInstruction_instr {s : State} {op : Word} {i : Instr} (hf : s.fetch = .word op)
    (hd : decodeWord op = .instr i) : runInstruction s = exec i s := by
  simp [runInstruction, execWord, hf, hd]

/-- A run of n + 1 steps whose first step goes on. -/
theorem run_succ {M : Host.Core} {s t : M.State} (h : M.step s = .next t) (n : Nat) :
    Host.Core.run M (n + 1) s = Host.Core.run M n t := by
  simp [Host.Core.run, h]

/-- The same for this machine. -/
theorem core_run_succ {s t : State} (h : step s = .next t) (n : Nat) :
    Host.Core.run Sys2Proof.core (n + 1) s = Host.Core.run Sys2Proof.core n t :=
  run_succ (M := Sys2Proof.core) h n

/-- One tick of an 8-bit counter, as a number (R123). -/
theorem countdown_toNat (b : Byte) : (if b = 0#8 then b else b - 1#8).toNat = b.toNat - 1 := by
  revert b; decide

/-- Everything the waiting step can do (R112). -/
theorem State.waitStep_cases (x : Reg) (prev : KeyVector) (s : State) :
    (∃ k, leastKey (newlyPressed prev s.keys) = some k ∧
      s.waitStep x prev = (s.setV x (BitVec.ofNat 8 k.val)).advance.setRun .running) ∨
    (leastKey (newlyPressed prev s.keys) = none ∧ s.waitStep x prev = s.setRun (.waitingForKey x s.keys)) := by
  unfold State.waitStep
  split
  · exact .inl ⟨_, ‹_›, rfl⟩
  · exact .inr ⟨‹_›, rfl⟩

@[simp] theorem noneNewlyPressed_nil (prev : KeyVector) : NoneNewlyPressed prev [] := trivial

@[simp] theorem noneNewlyPressed_cons (prev now : KeyVector) (later : List KeyVector) :
    NoneNewlyPressed prev (now :: later) ↔
      (∀ k : Reg, now.getLsbD k.val = true → prev.getLsbD k.val = true) ∧ NoneNewlyPressed now later := Iff.rfl

/-- The waiting step goes on when no key is newly pressed. -/
theorem State.waitStep_of_none {x : Reg} {prev : KeyVector} {s : State}
    (h : ∀ k : Reg, s.keys.getLsbD k.val = true → prev.getLsbD k.val = true) :
    s.waitStep x prev = s.setRun (.waitingForKey x s.keys) := by
  rcases State.waitStep_cases x prev s with ⟨k, hk, -⟩ | ⟨-, hw⟩
  · have hnew := (leastKey_eq_some hk).1
    rw [getLsbD_newlyPressed, Bool.and_eq_true] at hnew
    rw [h k hnew.1] at hnew
    exact absurd hnew.2 (by decide)
  · exact hw

end Sys2Proof.Machine
end

