-- ==== Sys2Proof/Laws/Frames.lean ====
section
/-! SUPPORT. What the loops (copying bytes, loading registers, flipping cells) leave alone, field by field and view by view,
and what a whole frame needs. -/

namespace Sys2Proof.Machine

/-! `copyBytes` -/

@[simp] theorem State.copyBytes_v (bs : List Byte) (a : Nat) (s : State) : (State.copyBytes bs a s).v = s.v := by rw [State.copyBytes_eq]
@[simp] theorem State.copyBytes_pc (bs : List Byte) (a : Nat) (s : State) : (State.copyBytes bs a s).pc = s.pc := by rw [State.copyBytes_eq]
@[simp] theorem State.copyBytes_i (bs : List Byte) (a : Nat) (s : State) : (State.copyBytes bs a s).i = s.i := by rw [State.copyBytes_eq]
@[simp] theorem State.copyBytes_dt (bs : List Byte) (a : Nat) (s : State) : (State.copyBytes bs a s).dt = s.dt := by rw [State.copyBytes_eq]
@[simp] theorem State.copyBytes_st (bs : List Byte) (a : Nat) (s : State) : (State.copyBytes bs a s).st = s.st := by rw [State.copyBytes_eq]
@[simp] theorem State.copyBytes_sp (bs : List Byte) (a : Nat) (s : State) : (State.copyBytes bs a s).sp = s.sp := by rw [State.copyBytes_eq]
@[simp] theorem State.copyBytes_stack (bs : List Byte) (a : Nat) (s : State) : (State.copyBytes bs a s).stack = s.stack := by rw [State.copyBytes_eq]
@[simp] theorem State.copyBytes_fb (bs : List Byte) (a : Nat) (s : State) : (State.copyBytes bs a s).fb = s.fb := by rw [State.copyBytes_eq]
@[simp] theorem State.copyBytes_keys (bs : List Byte) (a : Nat) (s : State) : (State.copyBytes bs a s).keys = s.keys := by rw [State.copyBytes_eq]
@[simp] theorem State.copyBytes_run (bs : List Byte) (a : Nat) (s : State) : (State.copyBytes bs a s).run = s.run := by rw [State.copyBytes_eq]
@[simp] theorem State.copyBytes_out (bs : List Byte) (a : Nat) (s : State) : (State.copyBytes bs a s).out = s.out := by rw [State.copyBytes_eq]
@[simp] theorem State.copyBytes_params (bs : List Byte) (a : Nat) (s : State) : (State.copyBytes bs a s).params = s.params := by rw [State.copyBytes_eq]
@[simp] theorem State.copyBytes_keyInputs (bs : List Byte) (a : Nat) (s : State) : (State.copyBytes bs a s).keyInputs = s.keyInputs := by rw [State.copyBytes_eq]
@[simp] theorem State.copyBytes_cycles (bs : List Byte) (a : Nat) (s : State) : (State.copyBytes bs a s).cycles = s.cycles := by rw [State.copyBytes_eq]
@[simp] theorem State.copyBytes_draws (bs : List Byte) (a : Nat) (s : State) : (State.copyBytes bs a s).draws = s.draws := by rw [State.copyBytes_eq]
@[simp] theorem State.copyBytes_getV (bs : List Byte) (a : Nat) (s : State) (q : Reg) : (State.copyBytes bs a s).getV q = s.getV q := by rw [State.copyBytes_eq]; rfl
@[simp] theorem State.copyBytes_lowNibble (bs : List Byte) (a : Nat) (s : State) (q : Reg) : (State.copyBytes bs a s).lowNibble q = s.lowNibble q := by rw [State.copyBytes_eq]; rfl
@[simp] theorem State.copyBytes_slot (bs : List Byte) (a : Nat) (s : State) (j : Fin 16) : (State.copyBytes bs a s).slot j = s.slot j := by rw [State.copyBytes_eq]; rfl
@[simp] theorem State.copyBytes_unlisted (bs : List Byte) (a : Nat) (s : State) : (State.copyBytes bs a s).unlisted = s.unlisted := by rw [State.copyBytes_eq]; rfl
@[simp] theorem State.copyBytes_getPixel (bs : List Byte) (a : Nat) (s : State) (p : Fin 2048) : (State.copyBytes bs a s).getPixel p = s.getPixel p := by rw [State.copyBytes_eq]; rfl
@[simp] theorem State.copyBytes_key (bs : List Byte) (a : Nat) (s : State) (q : Reg) : (State.copyBytes bs a s).key q = s.key q := by rw [State.copyBytes_eq]; rfl
@[simp] theorem State.copyBytes_dataAddr (bs : List Byte) (a : Nat) (s : State) (c : Nat) : (State.copyBytes bs a s).dataAddr c = s.dataAddr c := by rw [State.copyBytes_eq]; rfl

/-! `loaded` -/

@[simp] theorem State.loaded_pc (rs : List Reg) (a : Nat) (s : State) : (State.loaded rs a s).pc = s.pc := by rw [State.loaded_eq]
@[simp] theorem State.loaded_i (rs : List Reg) (a : Nat) (s : State) : (State.loaded rs a s).i = s.i := by rw [State.loaded_eq]
@[simp] theorem State.loaded_dt (rs : List Reg) (a : Nat) (s : State) : (State.loaded rs a s).dt = s.dt := by rw [State.loaded_eq]
@[simp] theorem State.loaded_st (rs : List Reg) (a : Nat) (s : State) : (State.loaded rs a s).st = s.st := by rw [State.loaded_eq]
@[simp] theorem State.loaded_sp (rs : List Reg) (a : Nat) (s : State) : (State.loaded rs a s).sp = s.sp := by rw [State.loaded_eq]
@[simp] theorem State.loaded_stack (rs : List Reg) (a : Nat) (s : State) : (State.loaded rs a s).stack = s.stack := by rw [State.loaded_eq]
@[simp] theorem State.loaded_mem (rs : List Reg) (a : Nat) (s : State) : (State.loaded rs a s).mem = s.mem := by rw [State.loaded_eq]
@[simp] theorem State.loaded_fb (rs : List Reg) (a : Nat) (s : State) : (State.loaded rs a s).fb = s.fb := by rw [State.loaded_eq]
@[simp] theorem State.loaded_keys (rs : List Reg) (a : Nat) (s : State) : (State.loaded rs a s).keys = s.keys := by rw [State.loaded_eq]
@[simp] theorem State.loaded_run (rs : List Reg) (a : Nat) (s : State) : (State.loaded rs a s).run = s.run := by rw [State.loaded_eq]
@[simp] theorem State.loaded_out (rs : List Reg) (a : Nat) (s : State) : (State.loaded rs a s).out = s.out := by rw [State.loaded_eq]
@[simp] theorem State.loaded_params (rs : List Reg) (a : Nat) (s : State) : (State.loaded rs a s).params = s.params := by rw [State.loaded_eq]
@[simp] theorem State.loaded_keyInputs (rs : List Reg) (a : Nat) (s : State) : (State.loaded rs a s).keyInputs = s.keyInputs := by rw [State.loaded_eq]
@[simp] theorem State.loaded_cycles (rs : List Reg) (a : Nat) (s : State) : (State.loaded rs a s).cycles = s.cycles := by rw [State.loaded_eq]
@[simp] theorem State.loaded_draws (rs : List Reg) (a : Nat) (s : State) : (State.loaded rs a s).draws = s.draws := by rw [State.loaded_eq]
@[simp] theorem State.loaded_slot (rs : List Reg) (a : Nat) (s : State) (j : Fin 16) : (State.loaded rs a s).slot j = s.slot j := by rw [State.loaded_eq]; rfl
@[simp] theorem State.loaded_unlisted (rs : List Reg) (a : Nat) (s : State) : (State.loaded rs a s).unlisted = s.unlisted := by rw [State.loaded_eq]; rfl
@[simp] theorem State.loaded_byteAt (rs : List Reg) (a : Nat) (s : State) (c : Nat) :
    (State.loaded rs a s).byteAt c = s.byteAt c := State.byteAt_loaded rs a c s
@[simp] theorem State.loaded_memRead (rs : List Reg) (a : Nat) (s : State) (c : Nat) : (State.loaded rs a s).memRead c = s.memRead c := by rw [State.loaded_eq]; rfl
@[simp] theorem State.loaded_fetch (rs : List Reg) (a : Nat) (s : State) : (State.loaded rs a s).fetch = s.fetch := by rw [State.loaded_eq]; rfl
@[simp] theorem State.loaded_getPixel (rs : List Reg) (a : Nat) (s : State) (p : Fin 2048) : (State.loaded rs a s).getPixel p = s.getPixel p := by rw [State.loaded_eq]; rfl
@[simp] theorem State.loaded_key (rs : List Reg) (a : Nat) (s : State) (q : Reg) : (State.loaded rs a s).key q = s.key q := by rw [State.loaded_eq]; rfl
@[simp] theorem State.loaded_dataAddr (rs : List Reg) (a : Nat) (s : State) (c : Nat) : (State.loaded rs a s).dataAddr c = s.dataAddr c := by rw [State.loaded_eq]; rfl

/-! `flips` -/

@[simp] theorem State.flips_pc (s : State) (ks : List (Fin 2048)) : (s.flips ks).pc = s.pc := by rw [State.flips_eq]
@[simp] theorem State.flips_i (s : State) (ks : List (Fin 2048)) : (s.flips ks).i = s.i := by rw [State.flips_eq]
@[simp] theorem State.flips_dt (s : State) (ks : List (Fin 2048)) : (s.flips ks).dt = s.dt := by rw [State.flips_eq]
@[simp] theorem State.flips_st (s : State) (ks : List (Fin 2048)) : (s.flips ks).st = s.st := by rw [State.flips_eq]
@[simp] theorem State.flips_sp (s : State) (ks : List (Fin 2048)) : (s.flips ks).sp = s.sp := by rw [State.flips_eq]
@[simp] theorem State.flips_stack (s : State) (ks : List (Fin 2048)) : (s.flips ks).stack = s.stack := by rw [State.flips_eq]
@[simp] theorem State.flips_mem (s : State) (ks : List (Fin 2048)) : (s.flips ks).mem = s.mem := by rw [State.flips_eq]
@[simp] theorem State.flips_keys (s : State) (ks : List (Fin 2048)) : (s.flips ks).keys = s.keys := by rw [State.flips_eq]
@[simp] theorem State.flips_run (s : State) (ks : List (Fin 2048)) : (s.flips ks).run = s.run := by rw [State.flips_eq]
@[simp] theorem State.flips_out (s : State) (ks : List (Fin 2048)) : (s.flips ks).out = s.out := by rw [State.flips_eq]
@[simp] theorem State.flips_params (s : State) (ks : List (Fin 2048)) : (s.flips ks).params = s.params := by rw [State.flips_eq]
@[simp] theorem State.flips_keyInputs (s : State) (ks : List (Fin 2048)) : (s.flips ks).keyInputs = s.keyInputs := by rw [State.flips_eq]
@[simp] theorem State.flips_cycles (s : State) (ks : List (Fin 2048)) : (s.flips ks).cycles = s.cycles := by rw [State.flips_eq]
@[simp] theorem State.flips_draws (s : State) (ks : List (Fin 2048)) : (s.flips ks).draws = s.draws := by rw [State.flips_eq]
@[simp] theorem State.flips_slot (s : State) (ks : List (Fin 2048)) (j : Fin 16) : (s.flips ks).slot j = s.slot j := by rw [State.flips_eq]; rfl
@[simp] theorem State.flips_unlisted (s : State) (ks : List (Fin 2048)) : (s.flips ks).unlisted = s.unlisted := by rw [State.flips_eq]; rfl
@[simp] theorem State.flips_byteAt (s : State) (ks : List (Fin 2048)) (c : Nat) : (s.flips ks).byteAt c = s.byteAt c := by rw [State.flips_eq]; rfl
@[simp] theorem State.flips_memRead (s : State) (ks : List (Fin 2048)) (c : Nat) : (s.flips ks).memRead c = s.memRead c := by rw [State.flips_eq]; rfl
@[simp] theorem State.flips_fetch (s : State) (ks : List (Fin 2048)) : (s.flips ks).fetch = s.fetch := by rw [State.flips_eq]; rfl
@[simp] theorem State.flips_key (s : State) (ks : List (Fin 2048)) (q : Reg) : (s.flips ks).key q = s.key q := by rw [State.flips_eq]; rfl
@[simp] theorem State.flips_dataAddr (s : State) (ks : List (Fin 2048)) (c : Nat) : (s.flips ks).dataAddr c = s.dataAddr c := by rw [State.flips_eq]; rfl

/-! Frames -/

/-- A frame from the fields. -/
theorem KeepsAllBut.of_fields {ps : List Piece} {s t : State} (hi : .index ∉ ps → t.i = s.i)
    (hd : .delayTimer ∉ ps → t.dt = s.dt) (hs : .soundTimer ∉ ps → t.st = s.st)
    (hc : .callStack ∉ ps → t.sp = s.sp ∧ t.stack = s.stack) (hm : .memory ∉ ps → t.mem = s.mem)
    (hf : .framebuffer ∉ ps → t.fb = s.fb) (hk : .keyTable ∉ ps → t.keys = s.keys) (hr : .runState ∉ ps → t.run = s.run)
    (ho : .flags ∉ ps → t.out = s.out) (hp : t.params = s.params)
    (hh : .hostInputs ∉ ps → t.keyInputs = s.keyInputs ∧ t.cycles = s.cycles) (hw : .drawIndex ∉ ps → t.draws = s.draws) :
    KeepsAllBut ps s t := by
  intro p hnot
  cases p
  case index => exact hi hnot
  case delayTimer => exact hd hnot
  case soundTimer => exact hs hnot
  case callStack => exact ⟨(hc hnot).1, fun k => by simp only [State.slot, (hc hnot).2]⟩
  case memory => exact fun a => by simp only [State.byteAt, State.unlisted, hm hnot, hp]
  case framebuffer => exact fun k => by simp only [State.getPixel, hf hnot]
  case keyTable => exact hk hnot
  case runState => exact hr hnot
  case flags => exact ho hnot
  case params => exact hp
  case hostInputs => exact hh hnot
  case drawIndex => exact hw hnot

theorem KeepsAllBut.mono {ps qs : List Piece} {s t : State} (h : KeepsAllBut ps s t) (hsub : ∀ p ∈ ps, p ∈ qs) :
    KeepsAllBut qs s t := fun p hp => h p fun hmem => hp (hsub p hmem)

theorem Piece.Same.trans {p : Piece} {s t u : State} (h : p.Same s t) (h' : p.Same t u) : p.Same s u := by
  cases p
  case callStack => exact ⟨h'.1.trans h.1, fun k => (h'.2 k).trans (h.2 k)⟩
  case memory => exact fun a => (h' a).trans (h a)
  case framebuffer => exact fun k => (h' k).trans (h k)
  case hostInputs => exact ⟨h'.1.trans h.1, h'.2.trans h.2⟩
  all_goals exact Eq.trans h' h

theorem KeepsAllBut.trans {ps : List Piece} {s t u : State} (h : KeepsAllBut ps s t) (h' : KeepsAllBut ps t u) :
    KeepsAllBut ps s u := fun p hp => (h p hp).trans (h' p hp)

theorem KeepsAllBut.setPc {ps : List Piece} {s t : State} (h : KeepsAllBut ps s t) (w : Word) : KeepsAllBut ps s (t.setPc w) :=
  h.trans (KeepsAllBut.of_fields (by simp) (by simp) (by simp) (by simp) (by simp) (by simp) (by simp) (by simp) (by simp)
    (by simp) (by simp) (by simp))

theorem KeepsAllBut.advance {ps : List Piece} {s t : State} (h : KeepsAllBut ps s t) : KeepsAllBut ps s t.advance := h.setPc _

theorem KeepsAllBut.raise {ps : List Piece} {s t : State} (h : KeepsAllBut ps s t) (hr : .runState ∈ ps) (ho : .flags ∈ ps)
    (c : ErrorCause) : KeepsAllBut ps s (t.raise c) :=
  h.trans (KeepsAllBut.of_fields (by simp) (by simp) (by simp) (by simp) (by simp) (by simp) (by simp) (by simp [hr])
    (by simp [ho]) (by simp) (by simp) (by simp))

theorem KeepsRegsBut.of_v {s t : State} (h : t.v = s.v) (written : Reg → Prop) : KeepsRegsBut written s t :=
  fun r _ => by simp only [State.getV, h]

theorem KeepsRegsBut.trans {w : Reg → Prop} {s t u : State} (h : KeepsRegsBut w s t) (h' : KeepsRegsBut w t u) :
    KeepsRegsBut w s u := fun r hr => (h' r hr).trans (h r hr)

theorem keepsAllBut_push {s t : State} {w : Word} (h : s.push w = some t) :
    KeepsAllBut [.callStack] s t ∧ t.v = s.v ∧ t.run = s.run := by
  obtain ⟨-, -, -, heq⟩ := State.push_eq_some h
  rw [heq]
  refine ⟨KeepsAllBut.of_fields ?_ ?_ ?_ ?_ ?_ ?_ ?_ ?_ ?_ ?_ ?_ ?_, rfl, rfl⟩ <;> simp

theorem keepsAllBut_pop {s t : State} {w : Word} (h : s.pop = some (w, t)) :
    KeepsAllBut [.callStack] s t ∧ t.v = s.v ∧ t.run = s.run ∧ t.stack = s.stack := by
  obtain ⟨-, -, -, heq⟩ := State.pop_eq_some h
  rw [heq]
  refine ⟨KeepsAllBut.of_fields ?_ ?_ ?_ ?_ ?_ ?_ ?_ ?_ ?_ ?_ ?_ ?_, rfl, rfl, rfl⟩ <;> simp

/-- Registers that flipping cells leaves alone: all but VF. -/
theorem State.getV_flips_ne (s : State) (ks : List (Fin 2048)) {q : Reg} (hq : q ≠ VF) : (s.flips ks).getV q = s.getV q := by
  induction ks generalizing s with
  | nil => rfl
  | cons k ks ih =>
    have : s.flips (k :: ks) = (s.flipPixel k).flips ks := rfl
    rw [this, ih, State.getV_flipPixel, if_neg (fun h => hq h.1)]

end Sys2Proof.Machine
end

