-- ==== Sys2Proof/Laws/Exec.lean ====
section
/-! SUPPORT. What the instructions with several accesses can answer: one inversion lemma each. -/

namespace Sys2Proof.Machine

/-- FX33: all three digits, or OutOfBounds at the first address past memory. -/
theorem execBcd_cases (x : Reg) (s : State) :
    (s.dataAddr 2 < memSize ∧
      execBcd x s = .next (State.copyBytes (decimalDigits (s.getV x)) (s.dataAddr 0) s).advance) ∨
    (memSize ≤ s.dataAddr 2 ∧
      execBcd x s = .next ((State.copyBytes ((decimalDigits (s.getV x)).take (memSize - s.dataAddr 0)) (s.dataAddr 0) s).raise
        (.outOfBounds (s.dataAddr 0 + (memSize - s.dataAddr 0))))) := by
  have hlen : (decimalDigits (s.getV x)).length = 3 := rfl
  have haddr : s.dataAddr 2 = s.dataAddr 0 + 2 := rfl
  unfold execBcd
  rw [State.storeBytes_eq, hlen]
  by_cases h : 3 ≤ memSize - s.dataAddr 0
  · rw [if_pos h]; exact .inl ⟨by omega, rfl⟩
  · rw [if_neg h]; exact .inr ⟨by omega, rfl⟩

/-- FX55: V0 to Vx, or OutOfBounds at the first address past memory. -/
theorem execStRegs_cases (x : Reg) (s : State) :
    (s.dataAddr x.val < memSize ∧ execStRegs x s = .next (State.copyBytes (s.valuesUpTo x) (s.dataAddr 0) s).advance) ∨
    (memSize ≤ s.dataAddr x.val ∧
      execStRegs x s = .next ((State.copyBytes ((s.valuesUpTo x).take (memSize - s.dataAddr 0)) (s.dataAddr 0) s).raise
        (.outOfBounds (s.dataAddr 0 + (memSize - s.dataAddr 0))))) := by
  have hlen : (s.valuesUpTo x).length = x.val + 1 := by rw [State.valuesUpTo, List.length_map, length_regsUpTo]
  have haddr : s.dataAddr x.val = s.dataAddr 0 + x.val := rfl
  unfold execStRegs
  rw [State.storeBytes_eq, hlen]
  by_cases h : x.val + 1 ≤ memSize - s.dataAddr 0
  · rw [if_pos h]; exact .inl ⟨by omega, rfl⟩
  · rw [if_neg h]; exact .inr ⟨by omega, rfl⟩

/-- FX65: V0 to Vx, or OutOfBounds at the first address past memory. -/
theorem execLdRegs_cases (x : Reg) (s : State) :
    (s.dataAddr x.val < memSize ∧ execLdRegs x s = .next (State.loaded (regsUpTo x) (s.dataAddr 0) s).advance) ∨
    (memSize ≤ s.dataAddr x.val ∧
      execLdRegs x s = .next ((State.loaded ((regsUpTo x).take (memSize - s.dataAddr 0)) (s.dataAddr 0) s).raise
        (.outOfBounds (s.dataAddr 0 + (memSize - s.dataAddr 0))))) := by
  have haddr : s.dataAddr x.val = s.dataAddr 0 + x.val := rfl
  unfold execLdRegs
  rw [State.loadRegs_eq, length_regsUpTo]
  by_cases h : x.val + 1 ≤ memSize - s.dataAddr 0
  · rw [if_pos h]; exact .inl ⟨by omega, rfl⟩
  · rw [if_neg h]; exact .inr ⟨by omega, rfl⟩

/-- DXYN: all rows, or OutOfBounds at the first sprite byte past memory. -/
theorem execDrw_cases (x y : Reg) (n : Nat) (s : State) :
    ((n = 0 ∨ s.dataAddr (n - 1) < memSize) ∧ execDrw x y n s =
      .next ((s.setFlag 0#8).flips (s.spriteCells (s.getV x).toNat (s.getV y).toNat n 0)).endDraw) ∨
    (0 < n ∧ memSize ≤ s.dataAddr (n - 1) ∧ execDrw x y n s =
      .next (((s.setFlag 0#8).flips (s.spriteCells (s.getV x).toNat (s.getV y).toNat (memSize - s.dataAddr 0) 0)).raise
        (.outOfBounds (s.dataAddr 0 + (memSize - s.dataAddr 0))))) := by
  have hcells : ∀ c, (s.setFlag 0#8).spriteCells (s.getV x).toNat (s.getV y).toNat c 0 =
      s.spriteCells (s.getV x).toNat (s.getV y).toNat c 0 :=
    fun c => State.spriteCells_congr (State.setFlag_i _ _) (State.setFlag_byteAt _ _) _ _ _ _
  have haddr : s.dataAddr (n - 1) = s.dataAddr 0 + (n - 1) := rfl
  have haddr0 : (s.setFlag 0#8).i.toNat + 0 = s.dataAddr 0 := rfl
  unfold execDrw
  rw [State.drawRows_eq, haddr0, hcells, hcells]
  by_cases h : n ≤ memSize - s.dataAddr 0
  · rw [if_pos h]; exact .inl ⟨by omega, rfl⟩
  · rw [if_neg h]; exact .inr ⟨by omega, by omega, rfl⟩

/-- The flags DXYN leaves (R105). -/
@[simp] theorem State.endDraw_out (s : State) : s.endDraw.out = { s.out with needsRedraw := true } := rfl

/-- The cells of a sprite as the claims say them (R105, R106). -/
theorem mem_spriteCells_iff {s : State} {x y : Reg} {n : Nat} {k : Fin 2048} :
    k ∈ s.spriteCells (s.getV x).toNat (s.getV y).toNat n 0 ↔ SpriteCovers s x y n k := by
  rw [State.mem_spriteCells]
  simp only [Nat.zero_add, SpriteCovers, State.dataAddr]

end Sys2Proof.Machine
end

