-- ==== Sys2Proof/Laws/PerInstr.lean ====
section
/-! SUPPORT. Statements made of every instruction as syntax, one lemma a constructor. -/

namespace Sys2Proof.Laws

namespace RoundTrip

/-- Decoding the encoding of a well-formed instruction gives it back (R50, R52). -/
def Statement (i : Instr) : Prop := i.WellFormed → decodeWord (encode i) = .instr i

theorem cls : Statement (.cls) := fun _ => by decide

theorem ret : Statement (.ret) := fun _ => by decide

theorem jp (nnn : Word) : Statement (.jp nnn) := fun h => by
  obtain ⟨hc, hn⟩ := fields_packNNN (cls := 1) (by decide) (of_decide_eq_true h)
  simp only [encode, decodeWord, hc, hn]

theorem call (nnn : Word) : Statement (.call nnn) := fun h => by
  obtain ⟨hc, hn⟩ := fields_packNNN (cls := 2) (by decide) (of_decide_eq_true h)
  simp only [encode, decodeWord, hc, hn]

theorem seImm (x : Reg) (nn : Byte) : Statement (.seImm x nn) := fun _ => by
  obtain ⟨hc, hx, hn⟩ := fields_packXNN (cls := 3) x nn (by decide)
  simp only [encode, decodeWord, hc, hx, hn]

theorem sneImm (x : Reg) (nn : Byte) : Statement (.sneImm x nn) := fun _ => by
  obtain ⟨hc, hx, hn⟩ := fields_packXNN (cls := 4) x nn (by decide)
  simp only [encode, decodeWord, hc, hx, hn]

theorem seReg (x : Reg) (y : Reg) : Statement (.seReg x y) := fun _ => by
  obtain ⟨hc, hx, hy, hn⟩ := fields_packXYN (cls := 5) (n := 0) x y (by decide) (by decide)
  simp [encode, decodeWord, hc, hx, hy, hn]

theorem ldImm (x : Reg) (nn : Byte) : Statement (.ldImm x nn) := fun _ => by
  obtain ⟨hc, hx, hn⟩ := fields_packXNN (cls := 6) x nn (by decide)
  simp only [encode, decodeWord, hc, hx, hn]

theorem addImm (x : Reg) (nn : Byte) : Statement (.addImm x nn) := fun _ => by
  obtain ⟨hc, hx, hn⟩ := fields_packXNN (cls := 7) x nn (by decide)
  simp only [encode, decodeWord, hc, hx, hn]

theorem ldReg (x : Reg) (y : Reg) : Statement (.ldReg x y) := fun _ => by
  obtain ⟨hc, hx, hy, hn⟩ := fields_packXYN (cls := 8) (n := 0) x y (by decide) (by decide)
  simp [encode, decodeWord, decodeClass8, hc, hx, hy, hn]

theorem orReg (x : Reg) (y : Reg) : Statement (.orReg x y) := fun _ => by
  obtain ⟨hc, hx, hy, hn⟩ := fields_packXYN (cls := 8) (n := 1) x y (by decide) (by decide)
  simp [encode, decodeWord, decodeClass8, hc, hx, hy, hn]

theorem andReg (x : Reg) (y : Reg) : Statement (.andReg x y) := fun _ => by
  obtain ⟨hc, hx, hy, hn⟩ := fields_packXYN (cls := 8) (n := 2) x y (by decide) (by decide)
  simp [encode, decodeWord, decodeClass8, hc, hx, hy, hn]

theorem xorReg (x : Reg) (y : Reg) : Statement (.xorReg x y) := fun _ => by
  obtain ⟨hc, hx, hy, hn⟩ := fields_packXYN (cls := 8) (n := 3) x y (by decide) (by decide)
  simp [encode, decodeWord, decodeClass8, hc, hx, hy, hn]

theorem addReg (x : Reg) (y : Reg) : Statement (.addReg x y) := fun _ => by
  obtain ⟨hc, hx, hy, hn⟩ := fields_packXYN (cls := 8) (n := 4) x y (by decide) (by decide)
  simp [encode, decodeWord, decodeClass8, hc, hx, hy, hn]

theorem subReg (x : Reg) (y : Reg) : Statement (.subReg x y) := fun _ => by
  obtain ⟨hc, hx, hy, hn⟩ := fields_packXYN (cls := 8) (n := 5) x y (by decide) (by decide)
  simp [encode, decodeWord, decodeClass8, hc, hx, hy, hn]

theorem shr (x : Reg) (y : Reg) : Statement (.shr x y) := fun _ => by
  obtain ⟨hc, hx, hy, hn⟩ := fields_packXYN (cls := 8) (n := 6) x y (by decide) (by decide)
  simp [encode, decodeWord, decodeClass8, hc, hx, hy, hn]

theorem subn (x : Reg) (y : Reg) : Statement (.subn x y) := fun _ => by
  obtain ⟨hc, hx, hy, hn⟩ := fields_packXYN (cls := 8) (n := 7) x y (by decide) (by decide)
  simp [encode, decodeWord, decodeClass8, hc, hx, hy, hn]

theorem shl (x : Reg) (y : Reg) : Statement (.shl x y) := fun _ => by
  obtain ⟨hc, hx, hy, hn⟩ := fields_packXYN (cls := 8) (n := 14) x y (by decide) (by decide)
  simp [encode, decodeWord, decodeClass8, hc, hx, hy, hn]

theorem sneReg (x : Reg) (y : Reg) : Statement (.sneReg x y) := fun _ => by
  obtain ⟨hc, hx, hy, hn⟩ := fields_packXYN (cls := 9) (n := 0) x y (by decide) (by decide)
  simp [encode, decodeWord, hc, hx, hy, hn]

theorem ldI (nnn : Word) : Statement (.ldI nnn) := fun h => by
  obtain ⟨hc, hn⟩ := fields_packNNN (cls := 10) (by decide) (of_decide_eq_true h)
  simp only [encode, decodeWord, hc, hn]

theorem jpV0 (nnn : Word) : Statement (.jpV0 nnn) := fun h => by
  obtain ⟨hc, hn⟩ := fields_packNNN (cls := 11) (by decide) (of_decide_eq_true h)
  simp only [encode, decodeWord, hc, hn]

theorem rnd (x : Reg) (nn : Byte) : Statement (.rnd x nn) := fun _ => by
  obtain ⟨hc, hx, hn⟩ := fields_packXNN (cls := 12) x nn (by decide)
  simp only [encode, decodeWord, hc, hx, hn]

theorem drw (x : Reg) (y : Reg) (n : Nat) : Statement (.drw x y n) := fun h => by
  obtain ⟨hc, hx, hy, hn⟩ := fields_packXYN (cls := 13) (n := n) x y (by decide) (of_decide_eq_true h)
  simp only [encode, decodeWord, hc, hx, hy, hn]

theorem skp (x : Reg) : Statement (.skp x) := fun _ => by
  obtain ⟨hc, hx, hn⟩ := fields_packXNN (cls := 14) x 0x9E#8 (by decide)
  simp [encode, decodeWord, hc, hx, hn]

theorem sknp (x : Reg) : Statement (.sknp x) := fun _ => by
  obtain ⟨hc, hx, hn⟩ := fields_packXNN (cls := 14) x 0xA1#8 (by decide)
  simp [encode, decodeWord, hc, hx, hn]

theorem ldVxDt (x : Reg) : Statement (.ldVxDt x) := fun _ => by
  obtain ⟨hc, hx, hn⟩ := fields_packXNN (cls := 15) x 0x07#8 (by decide)
  simp [encode, decodeWord, decodeClassF, hc, hx, hn]

theorem ldVxK (x : Reg) : Statement (.ldVxK x) := fun _ => by
  obtain ⟨hc, hx, hn⟩ := fields_packXNN (cls := 15) x 0x0A#8 (by decide)
  simp [encode, decodeWord, decodeClassF, hc, hx, hn]

theorem ldDtVx (x : Reg) : Statement (.ldDtVx x) := fun _ => by
  obtain ⟨hc, hx, hn⟩ := fields_packXNN (cls := 15) x 0x15#8 (by decide)
  simp [encode, decodeWord, decodeClassF, hc, hx, hn]

theorem ldStVx (x : Reg) : Statement (.ldStVx x) := fun _ => by
  obtain ⟨hc, hx, hn⟩ := fields_packXNN (cls := 15) x 0x18#8 (by decide)
  simp [encode, decodeWord, decodeClassF, hc, hx, hn]

theorem addI (x : Reg) : Statement (.addI x) := fun _ => by
  obtain ⟨hc, hx, hn⟩ := fields_packXNN (cls := 15) x 0x1E#8 (by decide)
  simp [encode, decodeWord, decodeClassF, hc, hx, hn]

theorem ldF (x : Reg) : Statement (.ldF x) := fun _ => by
  obtain ⟨hc, hx, hn⟩ := fields_packXNN (cls := 15) x 0x29#8 (by decide)
  simp [encode, decodeWord, decodeClassF, hc, hx, hn]

theorem bcd (x : Reg) : Statement (.bcd x) := fun _ => by
  obtain ⟨hc, hx, hn⟩ := fields_packXNN (cls := 15) x 0x33#8 (by decide)
  simp [encode, decodeWord, decodeClassF, hc, hx, hn]

theorem stRegs (x : Reg) : Statement (.stRegs x) := fun _ => by
  obtain ⟨hc, hx, hn⟩ := fields_packXNN (cls := 15) x 0x55#8 (by decide)
  simp [encode, decodeWord, decodeClassF, hc, hx, hn]

theorem ldRegs (x : Reg) : Statement (.ldRegs x) := fun _ => by
  obtain ⟨hc, hx, hn⟩ := fields_packXNN (cls := 15) x 0x65#8 (by decide)
  simp [encode, decodeWord, decodeClassF, hc, hx, hn]

end RoundTrip

end Sys2Proof.Laws
end

