-- ==== Sys2Proof/Tests/Slice0.lean ====
section
/-! SUPPORT. Tests. Expected results come from the spec: words are written out from the encodings of 30_encoding.md R52,
step results from the vectors of 95_test_vectors.md named beside them. The witnesses meet the hypotheses of the statements. -/

namespace Sys2Proof.Tests

open Sys2Proof Sys2Proof.Machine

/-- Reset, a word at 0x200, no key pressed in the next cycle. -/
def start (op : Word) : State := { State.reset.placeWord op with keyInputs := [0#16] }

/-- What one cycle leaves, seen through `f`. -/
def after {α : Type} (s : State) (f : State → α) : Option α :=
  match step s with
  | .next t => some (f t)
  | .fault e => nomatch e
  | .refused _ => none

/-- pc, two registers and what the cycle returned. -/
def seen (x y : Reg) (t : State) : Word × Byte × Byte × CycleResult := (t.pc, t.getV x, t.getV y, t.cycleResult)

/-- A cycle that returned Ok with no flag. -/
def quiet : CycleResult := .ok ⟨false, false, false⟩

/-! ## WellFormed refuses -/

theorem test_wf_refuses_jp : (Instr.jp 0x1000#16).wf = false := by decide
theorem test_wf_refuses_call : (Instr.call 0x1000#16).wf = false := by decide
theorem test_wf_refuses_ldI : (Instr.ldI 0xF000#16).wf = false := by decide
theorem test_wf_refuses_jpV0 : (Instr.jpV0 0x1000#16).wf = false := by decide
theorem test_wf_refuses_drw : (Instr.drw 1 2 16).wf = false := by decide

/-! ## Decoding, a word of every row (R52) -/

theorem test_decode_cls : decodeWord 0b0000_0000_1110_0000#16 = .instr (.cls) := by decide
theorem test_decode_ret : decodeWord 0b0000_0000_1110_1110#16 = .instr (.ret) := by decide
theorem test_decode_jp : decodeWord 0b0001_1010_1011_1100#16 = .instr (.jp 0xABC#16) := by decide
theorem test_decode_call : decodeWord 0b0010_0011_0100_0101#16 = .instr (.call 0x345#16) := by decide
theorem test_decode_seImm : decodeWord 0b0011_0010_0001_0111#16 = .instr (.seImm 2 0x17#8) := by decide
theorem test_decode_sneImm : decodeWord 0b0100_1001_1000_0001#16 = .instr (.sneImm 9 0x81#8) := by decide
theorem test_decode_seReg : decodeWord 0b0101_0001_0010_0000#16 = .instr (.seReg 1 2) := by decide
theorem test_decode_ldImm : decodeWord 0b0110_0011_1010_0101#16 = .instr (.ldImm 3 0xA5#8) := by decide
theorem test_decode_addImm : decodeWord 0b0111_1111_0000_0001#16 = .instr (.addImm 15 0x01#8) := by decide
theorem test_decode_ldReg : decodeWord 0b1000_0001_0010_0000#16 = .instr (.ldReg 1 2) := by decide
theorem test_decode_orReg : decodeWord 0b1000_0001_0010_0001#16 = .instr (.orReg 1 2) := by decide
theorem test_decode_andReg : decodeWord 0b1000_0001_0010_0010#16 = .instr (.andReg 1 2) := by decide
theorem test_decode_xorReg : decodeWord 0b1000_0001_0010_0011#16 = .instr (.xorReg 1 2) := by decide
theorem test_decode_addReg : decodeWord 0b1000_0001_0010_0100#16 = .instr (.addReg 1 2) := by decide
theorem test_decode_subReg : decodeWord 0b1000_0001_0010_0101#16 = .instr (.subReg 1 2) := by decide
theorem test_decode_shr : decodeWord 0b1000_0100_1110_0110#16 = .instr (.shr 4 14) := by decide
theorem test_decode_subn : decodeWord 0b1000_0001_0010_0111#16 = .instr (.subn 1 2) := by decide
theorem test_decode_shl : decodeWord 0b1000_0100_0000_1110#16 = .instr (.shl 4 0) := by decide
theorem test_decode_sneReg : decodeWord 0b1001_0001_0010_0000#16 = .instr (.sneReg 1 2) := by decide
theorem test_decode_ldI : decodeWord 0b1010_0000_0101_0000#16 = .instr (.ldI 0x050#16) := by decide
theorem test_decode_jpV0 : decodeWord 0b1011_1111_0000_1111#16 = .instr (.jpV0 0xF0F#16) := by decide
theorem test_decode_rnd : decodeWord 0b1100_0011_0000_1111#16 = .instr (.rnd 3 0x0F#8) := by decide
theorem test_decode_drw : decodeWord 0b1101_0001_0010_0101#16 = .instr (.drw 1 2 5) := by decide
theorem test_decode_skp : decodeWord 0b1110_0001_1001_1110#16 = .instr (.skp 1) := by decide
theorem test_decode_sknp : decodeWord 0b1110_0001_1010_0001#16 = .instr (.sknp 1) := by decide
theorem test_decode_ldVxDt : decodeWord 0b1111_0011_0000_0111#16 = .instr (.ldVxDt 3) := by decide
theorem test_decode_ldVxK : decodeWord 0b1111_0101_0000_1010#16 = .instr (.ldVxK 5) := by decide
theorem test_decode_ldDtVx : decodeWord 0b1111_0010_0001_0101#16 = .instr (.ldDtVx 2) := by decide
theorem test_decode_ldStVx : decodeWord 0b1111_0000_0001_1000#16 = .instr (.ldStVx 0) := by decide
theorem test_decode_addI : decodeWord 0b1111_0101_0001_1110#16 = .instr (.addI 5) := by decide
theorem test_decode_ldF : decodeWord 0b1111_0010_0010_1001#16 = .instr (.ldF 2) := by decide
theorem test_decode_bcd : decodeWord 0b1111_0011_0011_0011#16 = .instr (.bcd 3) := by decide
theorem test_decode_stRegs : decodeWord 0b1111_0001_0101_0101#16 = .instr (.stRegs 1) := by decide
theorem test_decode_ldRegs : decodeWord 0b1111_0001_0110_0101#16 = .instr (.ldRegs 1) := by decide

/-- R53: illegal words next to legal ones. -/
theorem test_decode_illegal : decodeWord 0x8128#16 = .unknownOpcode 0x8128#16 ∧
    decodeWord 0xE19F#16 = .unknownOpcode 0xE19F#16 ∧ decodeWord 0x00E1#16 = .unknownOpcode 0x00E1#16 := by decide

/-- R38, R49: the high byte lies at the lower address. -/
theorem test_decode_bytes : decodeBytes [0x63#8, 0xA5#8, 0x00#8] = .instr (.ldImm 3 0xA5#8) [0x00#8] ∧
    encodeBytes (.ldImm 3 0xA5#8) = [0x63#8, 0xA5#8] := by decide

theorem test_decodeTableWord : decodeTableWord 16 0xD125 = some (.drw 1 2 5) ∧ decodeTableWord 16 0x0000 = none := by decide

theorem test_withFetchWord_reset : (State.reset.withFetchWord 16 0x63A5).fetch = .word 0x63A5#16 := by decide

theorem test_withFetchWord_halted :
    ((State.reset.raise .stackOverflow).withFetchWord 16 0x00E0).run = .running := by decide

/-! ## One cycle (95_test_vectors.md, the vector named at each) -/

/-- L2-A1 -/
theorem test_ldImm : after ((start 0x63A5#16).setV 3 0x11#8) (seen 3 15) =
    some (0x202#16, 0xA5#8, 0x00#8, quiet) := by decide
/-- L2-A3 -/
theorem test_addImm_wraps : after (((start 0x70FF#16).setV 0 0x01#8).setV 15 0x55#8) (seen 0 15) =
    some (0x202#16, 0x00#8, 0x55#8, quiet) := by decide
/-- L2-A5 -/
theorem test_addImm_vf : after ((start 0x7F01#16).setV 15 0xFF#8) (seen 15 15) =
    some (0x202#16, 0x00#8, 0x00#8, quiet) := by decide
/-- L2-A6 -/
theorem test_ldReg : after (((start 0x8120#16).setV 1 0x07#8).setV 2 0x99#8) (seen 1 2) =
    some (0x202#16, 0x99#8, 0x99#8, quiet) := by decide
/-- L2-A7 -/
theorem test_orReg : after ((((start 0x8121#16).setV 1 0x0F#8).setV 2 0x30#8).setV 15 0x77#8) (seen 1 15) =
    some (0x202#16, 0x3F#8, 0x77#8, quiet) := by decide
/-- L2-A8 -/
theorem test_andReg : after ((((start 0x8122#16).setV 1 0x3C#8).setV 2 0x0F#8).setV 15 0x77#8) (seen 1 15) =
    some (0x202#16, 0x0C#8, 0x77#8, quiet) := by decide
/-- L2-A9 -/
theorem test_xorReg : after ((((start 0x8123#16).setV 1 0xFF#8).setV 2 0x0F#8).setV 15 0x77#8) (seen 1 15) =
    some (0x202#16, 0xF0#8, 0x77#8, quiet) := by decide
/-- L2-A11 -/
theorem test_addReg_carry : after ((((start 0x8124#16).setV 15 0x55#8).setV 1 0xC8#8).setV 2 0x64#8) (seen 1 15) =
    some (0x202#16, 0x2C#8, 0x01#8, quiet) := by decide
/-- L2-A15 -/
theorem test_addReg_vf : after (((start 0x8F14#16).setV 15 0xF0#8).setV 1 0x20#8) (seen 15 1) =
    some (0x202#16, 0x01#8, 0x20#8, quiet) := by decide
/-- L2-A17 -/
theorem test_subReg_borrow : after ((((start 0x8125#16).setV 15 0x55#8).setV 1 0x05#8).setV 2 0x07#8) (seen 1 15) =
    some (0x202#16, 0xFE#8, 0x00#8, quiet) := by decide
/-- L2-A18 -/
theorem test_subReg_equal : after ((((start 0x8125#16).setV 15 0x55#8).setV 1 0x33#8).setV 2 0x33#8) (seen 1 15) =
    some (0x202#16, 0x00#8, 0x01#8, quiet) := by decide
/-- L2-A22 -/
theorem test_subn : after ((((start 0x8127#16).setV 15 0x55#8).setV 1 0x05#8).setV 2 0x07#8) (seen 1 15) =
    some (0x202#16, 0x02#8, 0x01#8, quiet) := by decide
/-- L2-A31b -/
theorem test_subn_vf : after (((start 0x8F17#16).setV 15 0x10#8).setV 1 0x30#8) (seen 15 1) =
    some (0x202#16, 0x01#8, 0x30#8, quiet) := by decide
/-- L2-A26 -/
theorem test_shr : after ((((start 0x84E6#16).setV 4 0x80#8).setV 14 0xFF#8).setV 15 0x01#8) (seen 4 15) =
    some (0x202#16, 0x40#8, 0x00#8, quiet) := by decide
/-- L2-A27 -/
theorem test_shr_vf : after ((start 0x8F06#16).setV 15 0x03#8) (seen 15 15) =
    some (0x202#16, 0x00#8, 0x00#8, quiet) := by decide
/-- L2-A28 -/
theorem test_shl : after (((start 0x840E#16).setV 15 0x55#8).setV 4 0x81#8) (seen 4 15) =
    some (0x202#16, 0x02#8, 0x01#8, quiet) := by decide
/-- L2-A31 -/
theorem test_shl_vf : after ((start 0x8F0E#16).setV 15 0x81#8) (seen 15 15) =
    some (0x202#16, 0x02#8, 0x02#8, quiet) := by decide
/-- L2-A33, L2-A35: the draw is a free value, so the meaning is tested on the vectors' own draws. -/
theorem test_rnd : (State.reset.takeDraw 3 0x0F#8 0xA7#8).getV 3 = 0x07#8 ∧
    (State.reset.takeDraw 3 0xFF#8 0x5A#8).getV 3 = 0x5A#8 := by decide
/-- L2-B2 -/
theorem test_jp_odd : after (start 0x1301#16) (seen 0 15) =
    some (0x301#16, 0x00#8, 0x00#8, quiet) := by decide
/-- L2-B4 -/
theorem test_call : after (start 0x2300#16) (fun t => (t.pc, t.sp, t.slot 0)) = some (0x300#16, 1, 0x200#16) := by
  decide
/-- L2-B5 -/
theorem test_call_overflow : after ({ start 0x2300#16 with sp := 16 }) (fun t => (t.pc, t.sp, t.run)) =
    some (0x200#16, 16, .halted ⟨.stackOverflow, some 0x200#16⟩) := by decide
/-- L2-B7 -/
theorem test_ret : after ({ start 0x00EE#16 with sp := 1, stack := State.reset.stack.set 0 0x210#16 })
    (fun t => (t.pc, t.sp, t.slot 0)) = some (0x212#16, 0, 0x210#16) := by decide
/-- L2-B8 -/
theorem test_ret_underflow : after (start 0x00EE#16) State.run =
    some (.halted ⟨.stackUnderflow, some 0x200#16⟩) := by decide
/-- L2-B9 -/
theorem test_seImm_equal : after ((start 0x3210#16).setV 2 0x10#8) (seen 2 15) =
    some (0x204#16, 0x10#8, 0x00#8, quiet) := by decide
/-- L2-B12 -/
theorem test_sneImm_equal : after ((start 0x4210#16).setV 2 0x10#8) (seen 2 15) =
    some (0x202#16, 0x10#8, 0x00#8, quiet) := by decide
/-- L2-B11 -/
theorem test_sneImm_differ : after ((start 0x4211#16).setV 2 0x10#8) (seen 2 15) =
    some (0x204#16, 0x10#8, 0x00#8, quiet) := by decide
/-- L2-B13 -/
theorem test_seReg : after (((start 0x5120#16).setV 1 0x33#8).setV 2 0x33#8) (seen 1 2) =
    some (0x204#16, 0x33#8, 0x33#8, quiet) := by decide
/-- L2-B16 -/
theorem test_sneReg : after (((start 0x9120#16).setV 1 0x33#8).setV 2 0x34#8) (seen 1 2) =
    some (0x204#16, 0x33#8, 0x34#8, quiet) := by decide
/-- L2-B20, its first cycle -/
theorem test_jpV0 : after ((start 0xBFFF#16).setV 0 0xFF#8) (seen 0 15) =
    some (0x10FE#16, 0xFF#8, 0x00#8, quiet) := by decide
/-- L2-C2 -/
theorem test_ldI : after ((start 0xA123#16).setI 0xF000#16) State.i = some 0x123#16 := by decide
/-- L2-C4, L2-C5 -/
theorem test_addI : after (((start 0xF51E#16).setI 0xFFF#16).setV 5 1#8) (fun t => (t.i, t.getV VF)) = some (0x1000#16, 0#8) ∧
    after (((start 0xF51E#16).setI 0xFFFF#16).setV 5 1#8) State.i = some 0#16 := by decide
/-- L2-C7 -/
theorem test_ldF : after ((start 0xF229#16).setV 2 0x3A#8) State.i = some 0x082#16 := by decide
/-- L2-C9 -/
theorem test_bcd : after (((start 0xF333#16).setV 3 0x9C#8).setI 0x300#16)
    (fun t => (t.byteAt 0x300, t.byteAt 0x301, t.byteAt 0x302)) = some (1#8, 5#8, 6#8) := by decide
/-- L2-C12 -/
theorem test_bcd_stops : after (((start 0xF333#16).setV 3 0x7B#8).setI 0xFFE#16)
    (fun t => (t.byteAt 0xFFE, t.byteAt 0xFFF, t.run)) =
      some (1#8, 2#8, .halted ⟨.outOfBounds 0x1000, some 0x200#16⟩) := by decide
/-- L2-C14 -/
theorem test_stRegs : after ((((start 0xF055#16).setV 0 0x12#8).setV 1 0x34#8).setI 0x400#16)
    (fun t => (t.byteAt 0x400, t.byteAt 0x401, t.i)) = some (0x12#8, 0#8, 0x400#16) := by decide
/-- L2-C16, and the canonical form: a stored font byte of the same value is not listed. -/
theorem test_stRegs_font : after ((start 0xF055#16).setI 0x050#16) (fun t => t.byteAt 0x050) = some 0#8 ∧
    after (((start 0xF055#16).setV 0 0xF0#8).setI 0x050#16) State.mem = some (start 0xF055#16).mem := by decide
/-- L2-C18 -/
theorem test_ldRegs_all : after ((start 0xFF65#16).setI 0x050#16) (fun t => (t.getV 0, t.getV 9, t.getV 15, t.i)) =
    some (0xF0#8, 0x70#8, 0xF0#8, 0x050#16) := by decide
/-- L2-C19 -/
theorem test_ldRegs_stops : after ((((start 0xF265#16).poke 0xFFF 0x77#8).setI 0xFFF#16).setV 1 0x09#8)
    (fun t => (t.getV 0, t.getV 1, t.run)) =
      some (0x77#8, 0x09#8, .halted ⟨.outOfBounds 0x1000, some 0x200#16⟩) := by decide
/-- L2-D1 -/
theorem test_cls : after ((start 0x00E0#16).setPixel 2047 1#1) (fun t => (t.getPixel 2047, t.cycleResult)) =
    some (0#1, .ok ⟨false, true, false⟩) := by decide
/-- L2-D6 -/
theorem test_drw_spills : after (((start 0xD011#16).poke 0x300 0xF0#8).setI 0x300#16 |>.setV 0 0x3E#8)
    (fun t => ([61, 62, 63, 64, 65, 66].map t.getPixel, t.getV VF, t.cycleResult)) =
      some ([0#1, 1#1, 1#1, 1#1, 1#1, 0#1], 0#8, .ok ⟨true, false, false⟩) := by decide
/-- L2-D3 -/
theorem test_drw_collides : after ((((start 0xD011#16).poke 0x300 0x80#8).setI 0x300#16).setPixel 0 1#1)
    (fun t => (t.getPixel 0, t.getV VF)) = some (0#1, 1#8) := by decide
/-- L2-E3 -/
theorem test_skp : after ({ (start 0xE19E#16).setV 1 0x15#8 with keyInputs := [0x0020#16] }) State.pc = some 0x204#16 := by
  decide
/-- L2-E4 -/
theorem test_sknp : after ({ (start 0xE1A1#16).setV 1 0x0A#8 with keyInputs := [0x0400#16] }) State.pc = some 0x202#16 := by
  decide
/-- L2-E6 -/
theorem test_ldVxDt : after ((start 0xF307#16).setDt 0x3C#8) (fun t => (t.getV 3, t.dt)) = some (0x3C#8, 0x3B#8) := by
  decide
/-- L2-E7, L2-E8 -/
theorem test_ldDtVx : after ((start 0xF215#16).setV 2 0x3C#8) State.dt = some 0x3B#8 ∧
    after ((start 0xF215#16).setDt 5#8) State.dt = some 0#8 := by decide
/-- L2-E9 -/
theorem test_ldStVx : after ((start 0xF018#16).setV 0 1#8) (fun t => (t.st, t.cycleResult)) =
    some (0#8, .ok ⟨false, false, true⟩) := by decide
/-- L2-E11 -/
theorem test_ldVxK : after (start 0xF50A#16) (fun t => (t.pc, t.run)) = some (0x200#16, .waitingForKey 5 0#16) := by
  decide
/-- Program P7, its cycle 4 -/
theorem test_wait_ends : after ({ (start 0xF30A#16).setRun (.waitingForKey 3 0#16) with keyInputs := [0x0084#16] })
    (fun t => (t.pc, t.getV 3, t.run)) = some (0x202#16, 2#8, .running) := by decide
/-- L2-F5, its second cycle, and L2-F7 -/
theorem test_errors : after ((start 0x00E0#16).setPc 0xFFF#16) State.run =
      some (.halted ⟨.outOfBounds 0x1000, some 0xFFF#16⟩) ∧
    after ((start 0x0000#16).setDt 5#8) (fun t => (t.dt, t.run)) =
      some (5#8, .halted ⟨.unknownOpcode 0#16, some 0x200#16⟩) := by decide
/-- L2-G3 -/
theorem test_load : ((fun r : LoadResult => match r with
    | .ok t => some (t.byteAt 0x200, t.byteAt 0x201, t.byteAt 0x202, t.byteAt 0x203, t.atSelfLoop)
    | .err _ _ => none) (State.reset.loadProgram (some [0x12#8, 0x00#8, 0xAB#8]))) =
    some (0x12#8, 0x00#8, 0xAB#8, 0x00#8, true) := by decide
/-- R116: the cause codes -/
theorem test_codes : ErrorKind.unknownOpcode.code = 1 ∧ ErrorKind.stackUnderflow.code = 2 ∧
    ErrorKind.stackOverflow.code = 3 ∧ ErrorKind.outOfBounds.code = 4 ∧ ErrorKind.ioError.code = 5 := by decide

/-! ## Witnesses: the hypotheses of each statement hold together, at the boundaries of its clauses -/

theorem start_memWf (op : Word) : (start op).MemWf :=
  State.poke_memWf (State.poke_memWf (State.reset_memWf Config.defaultParams) _ (by decide)) _ (by decide)

theorem witness_DecodeOfEncodeIsIdentity : (Instr.jp 0xFFF#16).WellFormed ∧ (Instr.drw 15 15 15).WellFormed := by decide
theorem witness_EncodeOfDecodeIsIdentity : ∃ i, decodeWord 0x00E0#16 = .instr i := ⟨.cls, by decide⟩
theorem witness_RejectedExactlyWhenNoRowMatches : decodeWord 0x00EF#16 = .unknownOpcode 0x00EF#16 ∧
    (∀ r ∈ opcodeTable, ¬ r.Matches 0x00EF#16) ∧ ∃ r ∈ opcodeTable, r.Matches 0x00EE#16 := by decide
theorem witness_AtMostOneRowMatches : ∃ r ∈ opcodeTable, ∃ r' ∈ opcodeTable, r.Matches 0x8126#16 ∧ r'.Matches 0x8126#16 := by
  decide
theorem witness_ReadAfterStore : State.reset.MemWf ∧ (∃ t, State.reset.memWrite 0xFFF 1#8 = some t) ∧
    State.reset.memWrite 0x1000 1#8 = none := ⟨rfl, ⟨_, rfl⟩, rfl⟩
theorem witness_FetchIsBigEndianAndBounded : (State.reset.setPc 0xFFE#16).pc.toNat ≤ 0xFFE ∧
    (State.reset.setPc 0xFFF#16).pc.toNat = 0xFFF ∧ 0xFFF < (State.reset.setPc 0x1000#16).pc.toNat := by decide
theorem witness_StepRunsTheDecodedInstruction : (start 0x00EE#16).run = .running ∧
    (start 0x00EE#16).fetch = .word 0x00EE#16 ∧ decodeWord 0x00EE#16 = .instr .ret ∧
    (∃ k ks, (start 0x00EE#16).keyInputs = k :: ks) ∧
    (∃ t, exec .ret (start 0x00EE#16).beginCycle = .next t ∧ t.isHalted = true) ∧
    ∃ t, exec .cls (start 0x00E0#16).beginCycle = .next t ∧ t.isHalted = false := by
  refine ⟨rfl, by decide, by decide, ⟨_, _, rfl⟩, ⟨_, rfl, rfl⟩, ⟨_, rfl, rfl⟩⟩
theorem witness_StepRuns_noKeysQueued : (State.reset.placeWord 0x00E0#16).run = .running ∧
    (State.reset.placeWord 0x00E0#16).fetch = .word 0x00E0#16 ∧ (State.reset.placeWord 0x00E0#16).keyInputs = [] := by decide
theorem witness_FetchAndDecodeErrorsStopTheCycle : (start 0x0000#16).run = .running ∧
    (start 0x0000#16).fetch = .word 0x0000#16 ∧ decodeWord 0x0000#16 = .unknownOpcode 0x0000#16 ∧
    (State.reset.setPc 0xFFF#16).run = .running ∧
    (State.reset.setPc 0xFFF#16).fetch = .stopped (.outOfBounds 0x1000) := by decide
theorem witness_HaltedIsAbsorbing : (State.reset.raise .stackUnderflow).run = .halted ⟨.stackUnderflow, some 0x200#16⟩ := rfl

/-- Waiting at an FX0A for V3 with key 7 held; the next cycle presents `ks`. -/
def waiting (ks : KeyVector) : State :=
  { (start 0xF30A#16).setRun (.waitingForKey 3 0x0080#16) with keyInputs := [ks, ks] }

theorem witness_WaitingCycle : (waiting 0x0080#16).run = .waitingForKey 3 0x0080#16 ∧
    (∀ k : Reg, ¬ ((waiting 0x0080#16).beginCycle.key k = true ∧ (0x0080#16).getLsbD k.val = false)) ∧
    (waiting 0x0084#16).beginCycle.key 2 = true ∧ (0x0080#16).getLsbD 2 = false ∧
    ∀ j < (2 : Reg), ¬ ((waiting 0x0084#16).beginCycle.key j = true ∧ (0x0080#16).getLsbD j.val = false) := by decide
theorem witness_WaitLastsWhileNoKeyIsPressed : (waiting 0x0080#16).run = .waitingForKey 3 0x0080#16 ∧
    (waiting 0x0080#16).keyInputs = [0x0080#16, 0x0080#16] ++ [] ∧ NoneNewlyPressed 0x0080#16 [0x0080#16, 0x0080#16] :=
  ⟨rfl, rfl, by decide, by decide, trivial⟩
theorem witness_WaitLasts_released : (waiting 0x0000#16).run = .waitingForKey 3 0x0080#16 ∧
    (waiting 0x0000#16).keyInputs = [0x0000#16] ++ [0x0000#16] ∧ NoneNewlyPressed 0x0080#16 [0x0000#16] :=
  ⟨rfl, rfl, by decide, trivial⟩
theorem witness_TimerTickCountsDown : (State.reset.setSt 1#8).st = 1#8 ∧ (State.reset.raise .stackOverflow).isHalted = true ∧
    (start 0x00E0#16).run = .running ∧ (∃ u, runInstruction (start 0x00E0#16).beginCycle = .next u ∧ u.isHalted = false) ∧
    ∃ u, runInstruction (start 0x00EE#16).beginCycle = .next u ∧ u.isHalted = true :=
  ⟨rfl, rfl, rfl, ⟨_, rfl, rfl⟩, ⟨_, rfl, rfl⟩⟩
theorem witness_decode_clauses : classOf 0x6FFF#16 = 0x6 ∧ (classOf 0x8FF0#16 = 0x8 ∧ fieldN 0x8FF0#16 = 0) ∧
    classOf 0x3000#16 = 0x3 ∧ classOf 0x4FFF#16 = 0x4 ∧ classOf 0xAFFF#16 = 0xA ∧
    (classOf 0xEF9E#16 = 0xE ∧ fieldNN 0xEF9E#16 = 0x9E#8) ∧ (classOf 0xE0A1#16 = 0xE ∧ fieldNN 0xE0A1#16 = 0xA1#8) ∧
    (classOf 0x5FF0#16 = 0x5 ∧ fieldN 0x5FF0#16 = 0) ∧ (classOf 0x9000#16 = 0x9 ∧ fieldN 0x9000#16 = 0) := by decide
theorem witness_ErrorCycle : (start 0x00EE#16).isHalted = false ∧
    ∃ t e, step (start 0x00EE#16) = .next t ∧ t.run = .halted e := ⟨rfl, _, _, rfl, rfl⟩
theorem witness_OnlyTheListedInstructionsRaise : State.reset.isHalted = false ∧
    ∃ t e, exec .ret State.reset = .next t ∧ t.run = .halted e := ⟨rfl, _, _, rfl, rfl⟩
theorem witness_OnlyTheListed_outOfBounds : ∃ t, exec (.ldRegs 0) (State.reset.setI 0x1000#16) = .next t ∧
    t.run = .halted ⟨.outOfBounds 0x1000, some 0x200#16⟩ := ⟨_, rfl, rfl⟩
theorem witness_StepKeepsTheInvariant : (start 0x00E0#16).Inv ∧ ∃ t, step (start 0x00E0#16) = .next t :=
  ⟨⟨start_memWf _, by decide, fun k h => absurd h (Nat.not_lt_zero _), fun _ _ h => (by cases h), fun _ h => (by cases h)⟩, _, rfl⟩
theorem witness_exec_completes : State.reset.isHalted = false ∧
    ∃ t, exec (.addReg 1 2) State.reset = .next t ∧ t.isHalted = false := ⟨rfl, _, rfl, rfl⟩
theorem witness_OnlyKeyInstructionsSeeTheKeys : (Instr.drw 1 2 3).readsKeys = false ∧
    ∃ t, exec (.drw 1 2 0) State.reset = .next t := ⟨rfl, _, rfl⟩
theorem witness_StoredBytesAreFetched : (State.reset.setI 0xFF0#16).MemWf ∧
    (State.reset.setI 0xFF0#16).dataAddr (15 : Reg).val ≤ 0xFFF ∧ (15 : Reg).val = (14 : Reg).val + 1 ∧
    (0xFFE#16).toNat = (State.reset.setI 0xFF0#16).dataAddr (14 : Reg).val ∧
    (0xFEF#16).toNat + 1 = (State.reset.setI 0xFF0#16).dataAddr 0 := ⟨rfl, by decide, rfl, rfl, rfl⟩
theorem witness_StoredBytes_edges : (State.reset.setI 0xFFE#16).MemWf ∧
    (State.reset.setI 0xFFE#16).dataAddr (0 : Reg).val ≤ 0xFFF ∧
    (0xFFE#16).toNat = (State.reset.setI 0xFFE#16).dataAddr (0 : Reg).val ∧ (0xFFE#16).toNat < 0xFFF :=
  ⟨rfl, by decide, rfl, by decide⟩
theorem witness_StoredBytes_digits : (State.reset.setI 0xFFC#16).MemWf ∧ (State.reset.setI 0xFFC#16).dataAddr 2 ≤ 0xFFF ∧
    (0xFFC#16).toNat = (State.reset.setI 0xFFC#16).dataAddr 0 ∧ (0xFFD#16).toNat = (State.reset.setI 0xFFC#16).dataAddr 1 ∧
    (0xFFB#16).toNat + 1 = (State.reset.setI 0xFFC#16).dataAddr 0 ∧
    (0xFFE#16).toNat = (State.reset.setI 0xFFC#16).dataAddr 2 ∧ (0xFFE#16).toNat < 0xFFF :=
  ⟨rfl, by decide, rfl, rfl, rfl, rfl, by decide⟩
theorem witness_LoadProgramCopiesOrRejects : State.reset.MemWf ∧ (List.replicate 3584 0x01#8).length ≤ 3584 ∧
    3584 < (List.replicate 3585 0x01#8).length := by
  rw [List.length_replicate, List.length_replicate]
  exact ⟨rfl, by decide, by decide⟩
theorem witness_FontIsInPlaceAfterLoading : ∃ t, (State.resetWith Config.defaultParams).loadProgram (some [0x12#8, 0x00#8]) = .ok t :=
  ⟨_, rfl⟩
theorem witness_ShiftsSetTheBitShiftedOut : (4 : Reg) ≠ VF ∧ (15 : Reg) = VF := by decide
theorem witness_JumpsSetPc : AddrFits 0xFFF#16 ∧ AddrFits 0x000#16 := by decide
theorem witness_CallPushesItsOwnAddress : State.reset.sp.val = (0 : Fin 16).val ∧
    ({ State.reset with sp := 15 } : State).sp.val = (15 : Fin 16).val := by decide
theorem witness_ReturnGoesPastTheCall : ({ State.reset with sp := 1 } : State).sp.val = (0 : Fin 16).val + 1 ∧
    ({ State.reset with sp := 16 } : State).sp.val = (15 : Fin 16).val + 1 := by decide
theorem witness_StackErrorsComeBeforeAnyWrite : ({ State.reset with sp := 16 } : State).sp.val = 16 ∧
    State.reset.sp.val = 0 := by decide
theorem witness_CallThenReturn : ({ State.reset with sp := 15 } : State).sp.val < 16 := by decide
theorem witness_SkipOnImmediate : State.reset.getV 2 = 0#8 ∧ State.reset.getV 2 ≠ 1#8 := by decide
theorem witness_SkipOnRegister : State.reset.getV 1 = State.reset.getV 2 ∧
    (State.reset.setV 1 1#8).getV 1 ≠ (State.reset.setV 1 1#8).getV 2 ∧
    classOf 0x5001#16 = 0x5 ∧ fieldN 0x5001#16 ≠ 0 ∧ classOf 0x900F#16 = 0x9 ∧ fieldN 0x900F#16 ≠ 0 := by decide
theorem witness_LoadIndex : AddrFits 0xFFF#16 := by decide
theorem witness_BcdStoresThreeDigits : (State.reset.setI 0xFFD#16).MemWf ∧ (State.reset.setI 0xFFD#16).dataAddr 2 ≤ 0xFFF :=
  ⟨rfl, by decide⟩
theorem witness_BcdStopsPastMemory : (State.reset.setI 0xFFE#16).MemWf ∧ 0xFFF < (State.reset.setI 0xFFE#16).dataAddr 2 ∧
    (State.reset.setI 0xFFE#16).dataAddr 1 ≤ 0xFFF ∧ 0xFFF < (State.reset.setI 0xFFFF#16).dataAddr 2 := by
  refine ⟨rfl, ?_, ?_, ?_⟩ <;> decide
theorem witness_StoreRegisters : (State.reset.setI 0xFF0#16).MemWf ∧
    (State.reset.setI 0xFF0#16).dataAddr (15 : Reg).val ≤ 0xFFF := ⟨rfl, by decide⟩
theorem witness_StoreRegistersStopsPastMemory : (State.reset.setI 0xFF1#16).MemWf ∧
    0xFFF < (State.reset.setI 0xFF1#16).dataAddr (15 : Reg).val ∧
    (State.reset.setI 0xFF1#16).dataAddr (14 : Reg).val ≤ 0xFFF := ⟨rfl, by decide, by decide⟩
theorem witness_LoadRegisters : (State.reset.setI 0xFF0#16).dataAddr (15 : Reg).val ≤ 0xFFF := by decide
theorem witness_LoadRegistersStopsPastMemory : 0xFFF < (State.reset.setI 0xFF1#16).dataAddr (15 : Reg).val ∧
    (State.reset.setI 0xFF1#16).dataAddr (14 : Reg).val ≤ 0xFFF := by decide
theorem witness_DrawSprite : CountFits 15 ∧ (State.reset.setI 0xFF1#16).dataAddr (15 - 1) ≤ 0xFFF ∧ CountFits 0 := by decide
theorem witness_DrawSprite_collision : SpriteCovers (State.reset.setI 0x050#16) 0 0 1 0 ∧
    ¬ SpriteCovers (State.reset.setI 0x050#16) 0 0 0 0 := by
  refine ⟨⟨0, by decide, 0, by decide, by decide, by decide⟩, ?_⟩
  rintro ⟨row, h, -⟩
  exact Nat.not_lt_zero row h
theorem witness_DrawStopsPastMemory : CountFits 15 ∧ 0xFFF < (State.reset.setI 0xFF2#16).dataAddr (15 - 1) ∧ CountFits 1 ∧
    0xFFF < (State.reset.setI 0xFFFF#16).dataAddr (1 - 1) := by decide
theorem witness_DrawingTwiceRestores : CountFits 5 ∧ (State.reset.setI 0x050#16).dataAddr (5 - 1) ≤ 0xFFF ∧ (1 : Reg) ≠ VF ∧
    (2 : Reg) ≠ VF := by decide
theorem witness_SkipOnKey : (10 : Reg).val = ((State.reset.setV 1 0xFA#8).getV 1).toNat % 16 ∧
    (State.reset.writeKey 10 true).key 10 = true ∧ State.reset.key 10 = false := by decide
theorem witness_TimerWritesTickInTheSameCycle : (start 0xF015#16).run = .running ∧
    (start 0xF015#16).fetch = .word 0xF015#16 ∧ decodeWord 0xF015#16 = .instr (.ldDtVx 0) ∧
    (start 0xF018#16).fetch = .word 0xF018#16 ∧ decodeWord 0xF018#16 = .instr (.ldStVx 0) := by decide

end Sys2Proof.Tests
end

section
/-! PROOFS of the statements of 10_state.md (O19, O20): which registers and which pieces of the state an instruction may
change. First one frame rule for each state operation, then what 2NNN and 00EE can answer, then the two statements, by cases on
the instruction; instructions that make the same updates share a case. -/

namespace Sys2Proof.Machine

/-! ## Registers: one rule for each operation that writes V -/

section Registers

variable {w : Reg → Prop} {s t : State}

theorem KeepsRegsBut.refl (w : Reg → Prop) (s : State) : KeepsRegsBut w s s := fun _ _ => rfl

theorem KeepsRegsBut.setV (h : KeepsRegsBut w s t) {x : Reg} (hx : w x) (b : Byte) :
    KeepsRegsBut w s (t.setV x b) := fun r hr => by
  rw [State.getV_setV_ne t b fun hrx : r = x => hr (hrx ▸ hx), h r hr]

theorem KeepsRegsBut.setFlag (h : KeepsRegsBut w s t) (hf : w VF) (b : Byte) :
    KeepsRegsBut w s (t.setFlag b) := h.setV hf b

/-- A draw of CXNN writes V as `setV` does: the draw index is no register (log 4). -/
theorem KeepsRegsBut.takeDraw (h : KeepsRegsBut w s t) {x : Reg} (hx : w x) (nn b : Byte) :
    KeepsRegsBut w s (t.takeDraw x nn b) := h.setV hx (b &&& nn)

theorem KeepsRegsBut.loaded (h : KeepsRegsBut w s t) {rs : List Reg} (hrs : ∀ r ∈ rs, w r)
    (a : Nat) : KeepsRegsBut w s (State.loaded rs a t) := fun r hr => by
  rw [State.getV_loaded_out fun hmem => hr (hrs r hmem), h r hr]

theorem KeepsRegsBut.flips (h : KeepsRegsBut w s t) (hf : w VF) (ks : List (Fin 2048)) :
    KeepsRegsBut w s (t.flips ks) := fun r hr => by
  rw [State.getV_flips_ne t ks fun hrf : r = VF => hr (hrf ▸ hf), h r hr]

/-- An update that leaves V alone may follow. -/
theorem KeepsRegsBut.trans_v_eq {u : State} (h : KeepsRegsBut w s t) (hv : u.v = t.v) :
    KeepsRegsBut w s u := h.trans (.of_v hv w)

end Registers

/-! ## The other pieces: one rule for each operation, which names the piece it writes -/

section Pieces

variable {ps : List Piece} {s t : State}

theorem KeepsAllBut.refl (ps : List Piece) (s : State) : KeepsAllBut ps s s := by
  apply KeepsAllBut.of_fields <;> simp

theorem KeepsAllBut.setV (h : KeepsAllBut ps s t) (x : Reg) (b : Byte) : KeepsAllBut ps s (t.setV x b) :=
  h.trans (by apply KeepsAllBut.of_fields <;> simp)

theorem KeepsAllBut.loaded (h : KeepsAllBut ps s t) (rs : List Reg) (a : Nat) : KeepsAllBut ps s (State.loaded rs a t) :=
  h.trans (by apply KeepsAllBut.of_fields <;> simp)

theorem KeepsAllBut.setI (h : KeepsAllBut ps s t) (hp : .index ∈ ps) (w : Word) : KeepsAllBut ps s (t.setI w) :=
  h.trans (by apply KeepsAllBut.of_fields <;> simp [hp])

theorem KeepsAllBut.setDt (h : KeepsAllBut ps s t) (hp : .delayTimer ∈ ps) (b : Byte) : KeepsAllBut ps s (t.setDt b) :=
  h.trans (by apply KeepsAllBut.of_fields <;> simp [hp])

theorem KeepsAllBut.setSt (h : KeepsAllBut ps s t) (hp : .soundTimer ∈ ps) (b : Byte) : KeepsAllBut ps s (t.setSt b) :=
  h.trans (by apply KeepsAllBut.of_fields <;> simp [hp])

theorem KeepsAllBut.setRun (h : KeepsAllBut ps s t) (hp : .runState ∈ ps) (r : RunState) : KeepsAllBut ps s (t.setRun r) :=
  h.trans (by apply KeepsAllBut.of_fields <;> simp [hp])

theorem KeepsAllBut.setOut (h : KeepsAllBut ps s t) (hp : .flags ∈ ps) (o : Outputs) : KeepsAllBut ps s (t.setOut o) :=
  h.trans (by apply KeepsAllBut.of_fields <;> simp [hp])

theorem KeepsAllBut.takeDraw (h : KeepsAllBut ps s t) (hp : .drawIndex ∈ ps) (x : Reg) (nn b : Byte) :
    KeepsAllBut ps s (t.takeDraw x nn b) :=
  h.trans (by apply KeepsAllBut.of_fields <;> simp [hp])

theorem KeepsAllBut.copyBytes (h : KeepsAllBut ps s t) (hp : .memory ∈ ps) (bs : List Byte) (a : Nat) :
    KeepsAllBut ps s (State.copyBytes bs a t) :=
  h.trans (by apply KeepsAllBut.of_fields <;> simp [hp])

theorem KeepsAllBut.clearFb (h : KeepsAllBut ps s t) (hp : .framebuffer ∈ ps) : KeepsAllBut ps s t.clearFb :=
  h.trans (by apply KeepsAllBut.of_fields <;> simp [hp])

theorem KeepsAllBut.flips (h : KeepsAllBut ps s t) (hp : .framebuffer ∈ ps) (ks : List (Fin 2048)) :
    KeepsAllBut ps s (t.flips ks) :=
  h.trans (by apply KeepsAllBut.of_fields <;> simp [hp])

end Pieces

/-! ## How an instruction ends -/

/-- 2NNN: the push and the jump, or StackOverflow with nothing pushed (R88). -/
theorem execCall_cases (nnn : Word) (s : State) :
    (∃ u, s.push s.pc = some u ∧ execCall nnn s = .next (u.setPc nnn)) ∨
    (s.push s.pc = none ∧ execCall nnn s = .next (s.raise .stackOverflow)) := by
  unfold execCall
  split
  · exact .inl ⟨_, ‹_›, rfl⟩
  · exact .inr ⟨‹_›, rfl⟩

/-- 00EE: the pop and the jump past the popped address, or StackUnderflow with nothing popped (R89). -/
theorem execRet_cases (s : State) :
    (∃ w u, s.pop = some (w, u) ∧ execRet s = .next (u.setPc (w + 2#16))) ∨
    (s.pop = none ∧ execRet s = .next (s.raise .stackUnderflow)) := by
  unfold execRet
  split
  · exact .inl ⟨_, _, ‹_›, rfl⟩
  · exact .inr ⟨‹_›, rfl⟩

@[simp] theorem State.isHalted_raise (s : State) (c : ErrorCause) : (s.raise c).isHalted = true := rfl

/-- An answer is one state. -/
theorem next_state_unique {o : Answer} {t u : State} (h : o = .next t) (hu : o = .next u) : u = t :=
  Host.Outcome.next.inj (hu.symm.trans h)

/-- An answer that raises is not the answer of an instruction that completes. -/
theorem not_raised_of_completes {o : Answer} {t u : State} {c : ErrorCause} (h : o = .next t) (hrun : t.isHalted = false)
    (hu : o = .next (u.raise c)) : False := by
  rw [← next_state_unique h hu, State.isHalted_raise] at hrun
  cases hrun

end Sys2Proof.Machine

open Sys2Proof Sys2Proof.Machine

/-- Settles O19: by cases on the instruction, each update of V on its way, the failing ends included. -/
theorem onlyNamedRegistersAndFlagChange : Obligations.OnlyNamedRegistersAndFlagChange := by
  intro i s t h
  have keep := KeepsRegsBut.refl (fun r => i.namesDest r = true ∨ (i.writesFlag = true ∧ r = VF)) s
  cases i with
  | cls | jp | seImm | sneImm | seReg | sneReg | ldI | jpV0 | skp | sknp | ldVxK | ldDtVx | ldStVx | addI | ldF =>
    obtain rfl := next_state_unique h rfl
    exact keep.trans_v_eq rfl
  | ldImm | addImm | ldReg | orReg | andReg | xorReg | ldVxDt =>
    obtain rfl := next_state_unique h rfl
    exact (keep.setV (.inl (by simp [Instr.namesDest])) _).trans_v_eq rfl
  | rnd =>
    obtain rfl := next_state_unique h rfl
    exact (keep.takeDraw (.inl (by simp [Instr.namesDest])) _ _).trans_v_eq rfl
  | addReg | subReg | subn =>
    obtain rfl := next_state_unique h rfl
    exact ((keep.setV (.inl (by simp [Instr.namesDest])) _).setFlag (.inr ⟨rfl, rfl⟩) _).trans_v_eq rfl
  | shr | shl =>
    obtain rfl := next_state_unique h rfl
    exact ((keep.setFlag (.inr ⟨rfl, rfl⟩) _).setV (.inl (by simp [Instr.namesDest])) _).trans_v_eq rfl
  | call nnn =>
    obtain ⟨u, hpush, hu⟩ | ⟨-, hu⟩ := execCall_cases nnn s <;> obtain rfl := next_state_unique h hu
    · exact keep.trans_v_eq (keepsAllBut_push hpush).2.1
    · exact keep.trans_v_eq rfl
  | ret =>
    obtain ⟨w, u, hpop, hu⟩ | ⟨-, hu⟩ := execRet_cases s <;> obtain rfl := next_state_unique h hu
    · exact keep.trans_v_eq (keepsAllBut_pop hpop).2.1
    · exact keep.trans_v_eq rfl
  | bcd x =>
    obtain ⟨-, hu⟩ | ⟨-, hu⟩ := execBcd_cases x s <;> obtain rfl := next_state_unique h hu <;>
      exact keep.trans_v_eq (State.copyBytes_v _ _ s)
  | stRegs x =>
    obtain ⟨-, hu⟩ | ⟨-, hu⟩ := execStRegs_cases x s <;> obtain rfl := next_state_unique h hu <;>
      exact keep.trans_v_eq (State.copyBytes_v _ _ s)
  | ldRegs x =>
    have named : ∀ r ∈ regsUpTo x, (Instr.ldRegs x).namesDest r = true := fun r hr => decide_eq_true ((mem_regsUpTo x r).1 hr)
    obtain ⟨-, hu⟩ | ⟨-, hu⟩ := execLdRegs_cases x s <;> obtain rfl := next_state_unique h hu
    · exact (keep.loaded (fun r hr => .inl (named r hr)) _).trans_v_eq rfl
    · exact (keep.loaded (fun r hr => .inl (named r (List.mem_of_mem_take hr))) _).trans_v_eq rfl
  | drw x y n =>
    have drawn := fun ks => (keep.setFlag (.inr ⟨rfl, rfl⟩) 0#8).flips (.inr ⟨rfl, rfl⟩) ks
    obtain ⟨-, hu⟩ | ⟨-, -, hu⟩ := execDrw_cases x y n s <;> obtain rfl := next_state_unique h hu
    · exact (drawn _).trans_v_eq rfl
    · exact (drawn _).trans_v_eq rfl

/-- Settles O20: by cases on the instruction, each update names a piece that `Instr.touches` lists; an end that raises is not
one of an instruction that completes. -/
theorem eachPieceHasItsWriters : Obligations.EachPieceHasItsWriters := by
  intro i s t _ h hrun
  have keep := KeepsAllBut.refl i.touches s
  cases i with
  | jp | seImm | sneImm | seReg | sneReg | jpV0 | skp | sknp =>
    obtain rfl := next_state_unique h rfl
    exact keep.setPc _
  | ldImm | addImm | ldReg | orReg | andReg | xorReg | ldVxDt =>
    obtain rfl := next_state_unique h rfl
    exact (keep.setV _ _).advance
  | addReg | subReg | subn | shr | shl =>
    obtain rfl := next_state_unique h rfl
    exact ((keep.setV _ _).setV _ _).advance
  | rnd =>
    obtain rfl := next_state_unique h rfl
    exact (keep.takeDraw (by simp [Instr.touches]) _ _ _).advance
  | ldI | addI | ldF =>
    obtain rfl := next_state_unique h rfl
    exact (keep.setI (by simp [Instr.touches]) _).advance
  | ldDtVx =>
    obtain rfl := next_state_unique h rfl
    exact (keep.setDt (by simp [Instr.touches]) _).advance
  | ldStVx =>
    obtain rfl := next_state_unique h rfl
    exact (keep.setSt (by simp [Instr.touches]) _).advance
  | ldVxK =>
    obtain rfl := next_state_unique h rfl
    exact keep.setRun (by simp [Instr.touches]) _
  | cls =>
    obtain rfl := next_state_unique h rfl
    exact ((keep.clearFb (by simp [Instr.touches])).setOut (by simp [Instr.touches]) _).advance
  | call nnn =>
    obtain ⟨u, hpush, hu⟩ | ⟨-, hu⟩ := execCall_cases nnn s
    · obtain rfl := next_state_unique h hu
      exact (keepsAllBut_push hpush).1.setPc _
    · exact (not_raised_of_completes h hrun hu).elim
  | ret =>
    obtain ⟨w, u, hpop, hu⟩ | ⟨-, hu⟩ := execRet_cases s
    · obtain rfl := next_state_unique h hu
      exact (keepsAllBut_pop hpop).1.setPc _
    · exact (not_raised_of_completes h hrun hu).elim
  | bcd x =>
    obtain ⟨-, hu⟩ | ⟨-, hu⟩ := execBcd_cases x s
    · obtain rfl := next_state_unique h hu
      exact (keep.copyBytes (by simp [Instr.touches]) _ _).advance
    · exact (not_raised_of_completes h hrun hu).elim
  | stRegs x =>
    obtain ⟨-, hu⟩ | ⟨-, hu⟩ := execStRegs_cases x s
    · obtain rfl := next_state_unique h hu
      exact (keep.copyBytes (by simp [Instr.touches]) _ _).advance
    · exact (not_raised_of_completes h hrun hu).elim
  | ldRegs x =>
    obtain ⟨-, hu⟩ | ⟨-, hu⟩ := execLdRegs_cases x s
    · obtain rfl := next_state_unique h hu
      exact (keep.loaded _ _).advance
    · exact (not_raised_of_completes h hrun hu).elim
  | drw x y n =>
    obtain ⟨-, hu⟩ | ⟨-, -, hu⟩ := execDrw_cases x y n s
    · obtain rfl := next_state_unique h hu
      exact (((keep.setV VF 0#8).flips (by simp [Instr.touches]) _).setOut (by simp [Instr.touches]) _).advance
    · exact (not_raised_of_completes h hrun hu).elim
end

section
/-! PROOFS of the statements of 20_memory.md (O6, O7, O23): single accesses and the fetch against the addresses that exist, then
the three positions in which a fetch can meet bytes stored one after another, then the three statements. -/

namespace Sys2Proof.Machine

/-! ## Single accesses (R36, R41) -/

/-- The addresses that exist, as the statements write them (R36). -/
theorem lt_memSize_iff {a : Nat} : a < memSize ↔ a ≤ 0xFFF := Nat.lt_succ_iff

theorem State.exists_memRead_iff {s : State} {a : Nat} : (∃ v, s.memRead a = some v) ↔ a ≤ 0xFFF := by
  rw [State.memRead_eq, ← lt_memSize_iff]
  split <;> simp [*]

theorem State.memWrite_eq_some_iff {s t : State} {a : Nat} {b : Byte} :
    s.memWrite a b = some t ↔ a ≤ 0xFFF ∧ s.poke a b = t := by
  rw [State.memWrite_eq, ← lt_memSize_iff]
  split <;> simp [*]

theorem State.exists_memWrite_iff {s : State} {a : Nat} {b : Byte} : (∃ t, s.memWrite a b = some t) ↔ a ≤ 0xFFF := by
  simp [State.memWrite_eq_some_iff]

theorem State.memRead_poke_same {s : State} (h : s.MemWf) {a : Nat} (ha : a ≤ 0xFFF) (b : Byte) :
    (s.poke a b).memRead a = some b := by
  rw [State.memRead_eq, if_pos (lt_memSize_iff.2 ha), State.byteAt_poke_same h]

theorem State.memRead_poke_ne (s : State) {a c : Nat} (b : Byte) (hc : c ≠ a) : (s.poke a b).memRead c = s.memRead c := by
  rw [State.memRead_eq, State.memRead_eq, State.byteAt_poke_ne s b hc]

/-! ## The fetch (R62) -/

theorem State.fetch_of_le {s : State} (h : s.pc.toNat ≤ 0xFFE) :
    s.fetch = .word (wordOfBytes (s.byteAt s.pc.toNat) (s.byteAt (s.pc.toNat + 1))) := by
  rw [State.fetch_eq, if_pos (lt_memSize_iff.2 (Nat.succ_le_succ h))]

/-- Where pc + 1 does not exist, the first byte that does not is the one at pc or at 0x1000, whichever is higher. -/
theorem State.fetch_of_lt {s : State} (h : 0xFFE < s.pc.toNat) : s.fetch = .stopped (.outOfBounds (max s.pc.toNat 0x1000)) := by
  rw [State.fetch_eq, if_neg fun hlt => absurd (lt_memSize_iff.1 hlt) (by omega)]
  rfl

/-! ## Bytes stored one after another, as a fetch meets them (R38, R48)

Two of them, the first one with the byte below it, or the last one with the byte above it. -/

section Stored

variable {bs : List Byte} {a j : Nat} {s : State} {b hi lo : Byte} {w : Word}

theorem State.byteAt_copyBytes_of_getElem? (h : s.MemWf) (ha : a + bs.length ≤ memSize) (hb : bs[j]? = some b) :
    (State.copyBytes bs a s).byteAt (a + j) = b := by
  obtain ⟨hj, hbj⟩ := List.getElem?_eq_some_iff.1 hb
  rw [State.byteAt_copyBytes_in h ha hj, hbj]

theorem State.fetch_copyBytes_within (h : s.MemWf) (ha : a + bs.length ≤ memSize) (hhi : bs[j]? = some hi)
    (hlo : bs[j + 1]? = some lo) (hw : w.toNat = a + j) :
    ((State.copyBytes bs a s).setPc w).fetch = .word (wordOfBytes hi lo) := by
  obtain ⟨hj, -⟩ := List.getElem?_eq_some_iff.1 hlo
  rw [State.fetch_setPc _ (by omega), hw, State.byteAt_copyBytes_of_getElem? h ha hhi, Nat.add_assoc,
    State.byteAt_copyBytes_of_getElem? h ha hlo]

theorem State.fetch_copyBytes_first (h : s.MemWf) (ha : a + bs.length ≤ memSize) (hb : bs[0]? = some b)
    (hw : w.toNat + 1 = a) :
    ((State.copyBytes bs a s).setPc w).fetch = .word (wordOfBytes (s.byteAt w.toNat) b) := by
  obtain ⟨hj, -⟩ := List.getElem?_eq_some_iff.1 hb
  rw [State.fetch_setPc _ (by omega), State.byteAt_copyBytes_out bs s (.inl (by omega)), hw,
    ← State.byteAt_copyBytes_of_getElem? h ha hb, Nat.add_zero]

theorem State.fetch_copyBytes_last (h : s.MemWf) (ha : a + bs.length ≤ memSize) (hb : bs[j]? = some b)
    (hlen : bs.length = j + 1) (hw : w.toNat = a + j) (hlt : w.toNat < 0xFFF) :
    ((State.copyBytes bs a s).setPc w).fetch = .word (wordOfBytes b (s.byteAt (w.toNat + 1))) := by
  rw [State.fetch_setPc _ (lt_memSize_iff.2 hlt), State.byteAt_copyBytes_out (c := w.toNat + 1) bs s (.inr (by omega)), hw,
    State.byteAt_copyBytes_of_getElem? h ha hb]

end Stored

/-- A pc that is set does not depend on the one before. -/
theorem State.setPc_advance (s : State) (w : Word) : s.advance.setPc w = s.setPc w := rfl

/-! ## The storing instructions, where all their bytes exist (R100, R101) -/

theorem State.length_valuesUpTo (s : State) (x : Reg) : (s.valuesUpTo x).length = x.val + 1 := by
  rw [State.valuesUpTo, List.length_map, length_regsUpTo]

theorem State.valuesUpTo_getElem? (s : State) {x k : Reg} (h : k ≤ x) : (s.valuesUpTo x)[k.val]? = some (s.getV k) := by
  rw [State.getElem?_valuesUpTo, if_pos h]

theorem exec_stRegs_of_le {x : Reg} {s : State} (h : s.dataAddr x.val ≤ 0xFFF) :
    exec (.stRegs x) s = .next (State.copyBytes (s.valuesUpTo x) (s.dataAddr 0) s).advance := by
  obtain ⟨-, hu⟩ | ⟨hge, -⟩ := execStRegs_cases x s
  · exact hu
  · exact absurd (lt_memSize_iff.2 h) (Nat.not_lt.2 hge)

theorem exec_bcd_of_le {x : Reg} {s : State} (h : s.dataAddr 2 ≤ 0xFFF) :
    exec (.bcd x) s = .next (State.copyBytes (decimalDigits (s.getV x)) (s.dataAddr 0) s).advance := by
  obtain ⟨-, hu⟩ | ⟨hge, -⟩ := execBcd_cases x s
  · exact hu
  · exact absurd (lt_memSize_iff.2 h) (Nat.not_lt.2 hge)

theorem toNat_byte_of_lt {n : Nat} (h : n < 256) : (BitVec.ofNat 8 n).toNat = n := by
  rw [BitVec.toNat_ofNat, Nat.mod_eq_of_lt h]

/-- The three digits that FX33 stores, by their values. -/
theorem decimalDigits_values (b : Byte) : ∃ hundreds tens units : Byte, decimalDigits b = [hundreds, tens, units] ∧
    hundreds.toNat = b.toNat / 100 ∧ tens.toNat = b.toNat / 10 % 10 ∧ units.toNat = b.toNat % 10 := by
  have hb := b.isLt
  exact ⟨_, _, _, rfl, toNat_byte_of_lt (by omega), toNat_byte_of_lt (by omega),
    toNat_byte_of_lt (by omega)⟩

end Sys2Proof.Machine

open Sys2Proof Sys2Proof.Machine

/-- Settles O6: a store that succeeds is the unchecked write at an address that exists. -/
theorem readAfterStore : Obligations.ReadAfterStore := by
  intro s a b hwf
  refine ⟨State.exists_memRead_iff, State.exists_memWrite_iff, fun t ht => ?_⟩
  have hkeep := State.memWrite_memWf hwf ht
  obtain ⟨ha, rfl⟩ := State.memWrite_eq_some_iff.1 ht
  exact ⟨State.memRead_poke_same hwf ha b, hkeep, fun c hc => State.memRead_poke_ne s b hc⟩

/-- Settles O7: by where pc stands against the last address at which a word fits, 0xFFE. -/
theorem fetchIsBigEndianAndBounded : Obligations.FetchIsBigEndianAndBounded := by
  intro s
  refine ⟨fun h => ⟨_, State.fetch_of_le h, wordOfBytes_toNat _ _⟩, fun h => ?_, fun h => ?_⟩
  · rw [State.fetch_of_lt (by omega), Nat.max_eq_right (by omega)]
  · rw [State.fetch_of_lt (by omega), Nat.max_eq_left (by omega)]

/-- Settles O23: each of the two instructions copies its bytes to I upward and leaves the rest of memory, so a fetch meets the
copy in one of the three positions. -/
theorem storedBytesAreFetched : Obligations.StoredBytesAreFetched := by
  refine ⟨fun x s hwf hx => ⟨_, exec_stRegs_of_le hx, ?_⟩, fun x s hwf hx => ?_⟩
  · have hfit : s.dataAddr 0 + (s.valuesUpTo x).length ≤ memSize := by
      rw [State.length_valuesUpTo]; exact lt_memSize_iff.2 hx
    simp only [State.setPc_advance]
    refine ⟨fun w k k' hk hk' hw => ?_, fun w hw => ?_, fun w hw hlt => ?_⟩
    · have hkx : k.val ≤ x.val := Nat.le_of_succ_le (hk.ge.trans hk')
      exact State.fetch_copyBytes_within hwf hfit (s.valuesUpTo_getElem? hkx) (hk ▸ s.valuesUpTo_getElem? hk') hw
    · exact State.fetch_copyBytes_first hwf hfit (s.valuesUpTo_getElem? (Fin.zero_le x)) hw
    · exact State.fetch_copyBytes_last hwf hfit (s.valuesUpTo_getElem? le_rfl) (s.length_valuesUpTo x) hw hlt
  · obtain ⟨hundreds, tens, units, hdigits, hvalues⟩ := decimalDigits_values (s.getV x)
    have hexec := exec_bcd_of_le (x := x) hx
    rw [hdigits] at hexec
    have hfit : s.dataAddr 0 + [hundreds, tens, units].length ≤ memSize := lt_memSize_iff.2 hx
    obtain ⟨hh, ht, hu⟩ := hvalues
    refine ⟨_, hundreds, tens, units, hexec, hh, ht, hu, ?_⟩
    simp only [State.setPc_advance]
    refine ⟨fun w hw => ?_, fun w hw => ?_, fun w hw => ?_, fun w hw hlt => ?_⟩
    · exact State.fetch_copyBytes_within hwf hfit (j := 0) rfl rfl hw
    · exact State.fetch_copyBytes_within hwf hfit (j := 1) rfl rfl hw
    · exact State.fetch_copyBytes_first hwf hfit rfl hw
    · exact State.fetch_copyBytes_last hwf hfit (j := 2) rfl rfl hw hlt
end

section
/-! PROOFS of the statements of 30_encoding.md (O1 to O5): the round trip by the lemma of each constructor, what decoding a
word can give, said once, then the rows of the opcode table by the fields their masks fix, then the five statements. -/

namespace Sys2Proof

/-! ## Encoding, then decoding (R50, R52) -/

theorem decodeWord_encode : ∀ i : Instr, i.WellFormed → decodeWord (encode i) = .instr i
  | .cls => Laws.RoundTrip.cls
  | .ret => Laws.RoundTrip.ret
  | .jp nnn => Laws.RoundTrip.jp nnn
  | .call nnn => Laws.RoundTrip.call nnn
  | .seImm x nn => Laws.RoundTrip.seImm x nn
  | .sneImm x nn => Laws.RoundTrip.sneImm x nn
  | .seReg x y => Laws.RoundTrip.seReg x y
  | .ldImm x nn => Laws.RoundTrip.ldImm x nn
  | .addImm x nn => Laws.RoundTrip.addImm x nn
  | .ldReg x y => Laws.RoundTrip.ldReg x y
  | .orReg x y => Laws.RoundTrip.orReg x y
  | .andReg x y => Laws.RoundTrip.andReg x y
  | .xorReg x y => Laws.RoundTrip.xorReg x y
  | .addReg x y => Laws.RoundTrip.addReg x y
  | .subReg x y => Laws.RoundTrip.subReg x y
  | .shr x y => Laws.RoundTrip.shr x y
  | .subn x y => Laws.RoundTrip.subn x y
  | .shl x y => Laws.RoundTrip.shl x y
  | .sneReg x y => Laws.RoundTrip.sneReg x y
  | .ldI nnn => Laws.RoundTrip.ldI nnn
  | .jpV0 nnn => Laws.RoundTrip.jpV0 nnn
  | .rnd x nn => Laws.RoundTrip.rnd x nn
  | .drw x y n => Laws.RoundTrip.drw x y n
  | .skp x => Laws.RoundTrip.skp x
  | .sknp x => Laws.RoundTrip.sknp x
  | .ldVxDt x => Laws.RoundTrip.ldVxDt x
  | .ldVxK x => Laws.RoundTrip.ldVxK x
  | .ldDtVx x => Laws.RoundTrip.ldDtVx x
  | .ldStVx x => Laws.RoundTrip.ldStVx x
  | .addI x => Laws.RoundTrip.addI x
  | .ldF x => Laws.RoundTrip.ldF x
  | .bcd x => Laws.RoundTrip.bcd x
  | .stRegs x => Laws.RoundTrip.stRegs x
  | .ldRegs x => Laws.RoundTrip.ldRegs x

/-! ## What decoding a word can give (R52, R54, R55) -/

/-- An answer of the decoder that fits the word: an instruction of which it is the word, or the rejection of that word. -/
def Decoded.Fits (op : Word) : Decoded → Prop
  | .instr i => encode i = op ∧ i.WellFormed
  | .unknownOpcode w => w = op

theorem decodeClass8_fits {op : Word} (hc : classOf op = 0x8) : (decodeClass8 op).Fits op := by
  unfold decodeClass8
  split
  iterate 9 exact ⟨packXYN_fields hc ‹_›, rfl⟩
  rfl

theorem decodeClassF_fits {op : Word} (hc : classOf op = 0xF) : (decodeClassF op).Fits op := by
  unfold decodeClassF
  split_ifs
  iterate 9 exact ⟨packXNN_fields hc ‹_›, rfl⟩
  rfl

theorem decodeWord_fits (op : Word) : (decodeWord op).Fits op := by
  unfold decodeWord
  split <;> rename_i hc
  case h_1 => split_ifs with hcls hret; exacts [⟨hcls.symm, rfl⟩, ⟨hret.symm, rfl⟩, rfl]
  case h_2 | h_3 | h_11 | h_12 => exact ⟨packNNN_fields hc, decide_eq_true (fieldNNN_fits op)⟩
  case h_4 | h_5 | h_7 | h_8 | h_13 => exact ⟨packXNN_fields hc rfl, rfl⟩
  case h_6 | h_10 => split_ifs with hn; exacts [⟨packXYN_fields hc hn, rfl⟩, rfl]
  case h_9 => exact decodeClass8_fits hc
  case h_14 => exact ⟨packXYN_fields hc rfl, decide_eq_true (fieldN_fits op)⟩
  case h_15 => split_ifs with h9E hA1; exacts [⟨packXNN_fields hc h9E, rfl⟩, ⟨packXNN_fields hc hA1, rfl⟩, rfl]
  case h_16 => exact decodeClassF_fits hc
  case h_17 => rfl

/-! ## Which words each class rejects (R52, R55) -/

theorem ite_rejects_iff {p : Prop} [Decidable p] {i : Instr} {d : Decoded} {op : Word} :
    (if p then .instr i else d) = Decoded.unknownOpcode op ↔ ¬ p ∧ d = .unknownOpcode op := by
  split <;> simp [*]

theorem decodeClass8_rejects_iff {op : Word} :
    decodeClass8 op = .unknownOpcode op ↔ fieldN op ∉ [0x0, 0x1, 0x2, 0x3, 0x4, 0x5, 0x6, 0x7, 0xE] := by
  unfold decodeClass8
  split
  case h_10 => simp only [List.mem_cons, List.not_mem_nil]; tauto
  all_goals simp [*]

theorem decodeClassF_rejects_iff {op : Word} : decodeClassF op = .unknownOpcode op ↔
    fieldNN op ∉ [0x07#8, 0x0A#8, 0x15#8, 0x18#8, 0x1E#8, 0x29#8, 0x33#8, 0x55#8, 0x65#8] := by
  unfold decodeClassF
  simp [ite_rejects_iff]

/-! ## The rows of the opcode table, class by class (R53)

Every mask fixes the class nibble. The rows of one class fix the same part of the rest: nothing, N, NN or all of it. -/

/-- The rows of one class nibble. -/
def rowsOfClass (c : Nat) : List OpcodeRow := opcodeTable.filter (classOf ·.pattern = c)

theorem mem_rowsOfClass {r : OpcodeRow} {c : Nat} : r ∈ rowsOfClass c ↔ r ∈ opcodeTable ∧ classOf r.pattern = c := by
  simp [rowsOfClass]

/-- The row fixes the class nibble alone. -/
abbrev OpcodeRow.FixesClass (r : OpcodeRow) : Prop :=
  r.mask = 0xF000#16 ∧ r.pattern = BitVec.ofNat 16 (classOf r.pattern * 0x1000)

/-- The row fixes the class nibble and N. -/
abbrev OpcodeRow.FixesNibble (r : OpcodeRow) : Prop :=
  r.mask = 0xF00F#16 ∧ r.pattern = BitVec.ofNat 16 (classOf r.pattern * 0x1000 + fieldN r.pattern)

/-- The row fixes the class nibble and NN. -/
abbrev OpcodeRow.FixesByte (r : OpcodeRow) : Prop :=
  r.mask = 0xF0FF#16 ∧ r.pattern = BitVec.ofNat 16 (classOf r.pattern * 0x1000 + (fieldNN r.pattern).toNat)

/-- The row fixes the whole word. -/
abbrev OpcodeRow.FixesWord (r : OpcodeRow) : Prop := r.mask = 0xFFFF#16

theorem classOf_lt (op : Word) : classOf op < 16 := (op.extractLsb' 12 4).isLt

section Rows

variable {r : OpcodeRow} {op : Word} {c : Nat}

theorem OpcodeRow.FixesClass.matches (h : r.FixesClass) (hc : classOf op = classOf r.pattern) : r.Matches op := by
  obtain ⟨hmask, hpattern⟩ := h
  rwa [← class_matches (classOf_lt _), ← hmask, ← hpattern] at hc

theorem OpcodeRow.FixesNibble.matches_iff (h : r.FixesNibble) (hc : classOf op = classOf r.pattern) :
    r.Matches op ↔ fieldN op = fieldN r.pattern := by
  obtain ⟨hmask, hpattern⟩ := h
  have hiff := class_nibble_matches (op := op) (classOf_lt r.pattern) (fieldN_fits r.pattern)
  rwa [← hmask, ← hpattern, and_iff_right hc] at hiff

theorem OpcodeRow.FixesByte.matches_iff (h : r.FixesByte) (hc : classOf op = classOf r.pattern) :
    r.Matches op ↔ fieldNN op = fieldNN r.pattern := by
  obtain ⟨hmask, hpattern⟩ := h
  have hiff := class_byte_matches (op := op) (classOf_lt r.pattern) (fieldNN r.pattern).isLt
  rwa [← hmask, ← hpattern, and_iff_right hc, BitVec.toNat_inj] at hiff

theorem OpcodeRow.FixesWord.matches_iff (h : r.FixesWord) (_ : classOf op = classOf r.pattern) :
    r.Matches op ↔ op = r.pattern := by
  rw [Matches, h, word_matches]

theorem classOf_and (op w : Word) : classOf (op &&& w) = classOf op &&& classOf w := by
  rw [classOf, BitVec.extractLsb'_and, BitVec.toNat_and]; rfl

theorem OpcodeRow.classOf_eq_of_matches (hr : r ∈ opcodeTable) (h : r.Matches op) : classOf op = classOf r.pattern := by
  have hmask : ∀ r ∈ opcodeTable, classOf r.mask = 2 ^ 4 - 1 := by decide
  rw [← h, classOf_and, hmask r hr, Nat.and_two_pow_sub_one_of_lt_two_pow (classOf_lt op)]

/-- Only the rows of a word's class can match it. -/
theorem no_row_matches_iff_rowsOfClass (hc : classOf op = c) :
    (∀ r ∈ opcodeTable, ¬ r.Matches op) ↔ ∀ r ∈ rowsOfClass c, ¬ r.Matches op :=
  ⟨fun hnone r hr => hnone r (mem_rowsOfClass.1 hr).1,
    fun hnone r hr h => hnone r (mem_rowsOfClass.2 ⟨hr, (r.classOf_eq_of_matches hr h).symm.trans hc⟩) h⟩

/-- Where the rows of the word's class fix the part `f` of a word, no row matches exactly when that part has none of their
values. -/
theorem no_row_matches_iff {α : Type} (hc : classOf op = c) (f : Word → α) {Fixes : OpcodeRow → Prop} {vs : List α}
    (hf : ∀ {r : OpcodeRow}, Fixes r → classOf op = classOf r.pattern → (r.Matches op ↔ f op = f r.pattern))
    (hrows : ∀ r ∈ rowsOfClass c, Fixes r) (hvs : (rowsOfClass c).map (f ·.pattern) = vs) :
    (∀ r ∈ opcodeTable, ¬ r.Matches op) ↔ f op ∉ vs := by
  rw [no_row_matches_iff_rowsOfClass hc]
  simp only [← hvs, List.mem_map, not_exists, not_and, eq_comm (b := f op)]
  exact forall₂_congr fun r hr => not_congr (hf (hrows r hr) (hc.trans (mem_rowsOfClass.1 hr).2.symm))

end Rows

/-- The dispatch of a class accepts the values that the rows of the class fix. -/
theorem decodeWord_rejects_iff (op : Word) :
    decodeWord op = .unknownOpcode op ↔ ∀ r ∈ opcodeTable, ¬ r.Matches op := by
  unfold decodeWord
  split <;> rename_i hc
  case h_1 =>
    rw [no_row_matches_iff hc id (vs := [0x00E0#16, 0x00EE#16]) OpcodeRow.FixesWord.matches_iff (by decide) (by decide)]
    simp [ite_rejects_iff]
  case h_6 | h_10 =>
    rw [no_row_matches_iff hc fieldN (vs := [0x0]) OpcodeRow.FixesNibble.matches_iff (by decide) (by decide)]
    simp
  case h_9 =>
    rw [no_row_matches_iff hc fieldN OpcodeRow.FixesNibble.matches_iff (by decide) rfl]
    exact decodeClass8_rejects_iff
  case h_15 =>
    rw [no_row_matches_iff hc fieldNN (vs := [0x9E#8, 0xA1#8]) OpcodeRow.FixesByte.matches_iff (by decide) (by decide)]
    simp [ite_rejects_iff]
  case h_16 =>
    rw [no_row_matches_iff hc fieldNN OpcodeRow.FixesByte.matches_iff (by decide) rfl]
    exact decodeClassF_rejects_iff
  case h_2 | h_3 | h_4 | h_5 | h_7 | h_8 | h_11 | h_12 | h_13 | h_14 =>
    obtain ⟨r, hr, hclass, hfix⟩ : ∃ r ∈ opcodeTable, classOf op = classOf r.pattern ∧ r.FixesClass := by
      rw [hc]; decide
    exact iff_of_false nofun fun hnone => hnone r hr (hfix.matches hclass)
  case h_17 =>
    have hlt := classOf_lt op
    interval_cases classOf op <;> contradiction

/-! ## Two rows and one word (R54) -/

/-- Two rows that one word matches agree on the bits that both fix. -/
theorem OpcodeRow.Matches.agree {r r' : OpcodeRow} {op : Word} (h : r.Matches op) (h' : r'.Matches op) :
    r.pattern &&& r'.mask = r'.pattern &&& r.mask := by
  rw [← h, ← h', BitVec.and_assoc, BitVec.and_assoc, BitVec.and_comm r.mask]

theorem opcodeTable_disjoint : ∀ r ∈ opcodeTable, ∀ r' ∈ opcodeTable,
    r.pattern &&& r'.mask = r'.pattern &&& r.mask → r = r' := by
  decide

end Sys2Proof

open Sys2Proof

/-- Settles O1: by cases on the instruction. -/
theorem decodeOfEncodeIsIdentity : Obligations.DecodeOfEncodeIsIdentity := decodeWord_encode

/-- Settles O2: the word is packed again from the fields that were decoded. -/
theorem encodeOfDecodeIsIdentity : Obligations.EncodeOfDecodeIsIdentity := by
  intro op i h
  have hfits := decodeWord_fits op
  rwa [h] at hfits

/-- Settles O3: class by class, and a rejection carries the word it was given. -/
theorem rejectedExactlyWhenNoRowMatches : Obligations.RejectedExactlyWhenNoRowMatches := by
  refine fun op => ⟨decodeWord_rejects_iff op, fun w h => ?_⟩
  have hfits := decodeWord_fits op
  rwa [h] at hfits

/-- Settles O4: two rows of the table that agree on the bits that both fix are one row. -/
theorem atMostOneRowMatches : Obligations.AtMostOneRowMatches :=
  ⟨rfl, fun _ r hr r' hr' h h' => opcodeTable_disjoint r hr r' hr' (h.agree h')⟩

/-- Settles O5: each word is decoded by evaluation. -/
theorem spelledWordsDecode : Obligations.SpelledWordsDecode := by
  unfold Obligations.SpelledWordsDecode
  decide
end

section
/-! PROOFS of the statements of 40_cycle.md (O8 to O12, O14, O15, O17, O21, O22): how an instruction can end and how a cycle
can end, each said once, then the waiting step, what the key table can change, and the data of the invariant, then the ten
statements. -/

namespace Sys2Proof.Machine

/-! ## How an instruction ends (R64, R68) -/

theorem State.isHalted_of_run_eq {s t : State} (h : t.run = s.run) : t.isHalted = s.isHalted := by
  simp only [State.isHalted, h]

theorem State.toNat_pc_advance {s t : State} (h : t.pc = s.pc) : t.advance.pc.toNat = s.pcSkipping false := by
  simp [State.pcSkipping, h]

theorem State.toNat_pc_skipIf (s : State) (c : Bool) : (s.skipIf c).pc.toNat = s.pcSkipping c := by
  cases c <;> simp [State.pcSkipping]

/-- The key that EX9E and EXA1 ask for, as the table of R64 names it. -/
theorem State.key_lowNibble (s : State) (x : Reg) :
    s.key (s.lowNibble x) = s.keys.getLsbD ((s.getV x).toNat % 16) := by
  rw [State.key, State.lowNibble_val]

theorem State.getD_stack (s : State) (k : Fin 16) : s.stack.toList.getD k.val 0#16 = s.slot k := by
  simp [State.slot]

/-- The slot that a pop reads is the one the table of R64 names for 00EE. -/
theorem State.pop_eq_getD {s u : State} {w : Word} (h : s.pop = some (w, u)) :
    w = s.stack.toList.getD (s.sp.val - 1) 0#16 := by
  obtain ⟨hpos, -, hw, -⟩ := State.pop_eq_some h
  have hlt : s.sp.val - 1 < 16 := by omega
  rw [hw ⟨s.sp.val - 1, hlt⟩ rfl, ← s.getD_stack]

/-- How `i` can end in `s`: it completes, with pc by the table of R64, and only FX0A sets the run state; or it raises, from a
state whose registers, memory and cells alone may have been written. -/
inductive Ends (i : Instr) (s : State) : State → Prop
  | completes {t : State} (hpc : t.pc.toNat = i.pcAfter s)
      (hrun : t.run = s.run ∨ ∃ x, i = .ldVxK x ∧ t = s.setRun (.waitingForKey x s.keys)) : Ends i s t
  | raises {u : State} (c : ErrorCause) (hpc : u.pc = s.pc) (keep : KeepsAllBut [.memory, .framebuffer] s u) :
      Ends i s (u.raise c)

theorem exec_ends (i : Instr) (s : State) : ∃ t, exec i s = .next t ∧ Ends i s t := by
  have keep := KeepsAllBut.refl [.memory, .framebuffer] s
  cases i with
  | cls | ldImm | addImm | ldReg | orReg | andReg | xorReg | addReg | subReg | shr | subn | shl | ldI | rnd | ldVxDt | ldDtVx
  | ldStVx | addI | ldF => exact ⟨_, rfl, .completes (State.toNat_pc_advance rfl) (.inl rfl)⟩
  | seImm | sneImm | seReg | sneReg => exact ⟨_, rfl, .completes (s.toNat_pc_skipIf _) (.inl rfl)⟩
  | skp x | sknp x =>
    refine ⟨_, rfl, .completes ?_ (.inl rfl)⟩
    rw [State.toNat_pc_skipIf, State.key_lowNibble, Instr.pcAfter]
  | jp => exact ⟨_, rfl, .completes rfl (.inl rfl)⟩
  | jpV0 => exact ⟨_, rfl, .completes (BitVec.toNat_ofNat ..) (.inl rfl)⟩
  | ldVxK x => exact ⟨_, rfl, .completes rfl (.inr ⟨x, rfl, rfl⟩)⟩
  | call nnn =>
    obtain ⟨u, hpush, hu⟩ | ⟨-, hu⟩ := execCall_cases nnn s
    · obtain ⟨-, -, hrun⟩ := keepsAllBut_push hpush
      exact ⟨_, hu, .completes rfl (.inl hrun)⟩
    · exact ⟨_, hu, .raises _ rfl keep⟩
  | ret =>
    obtain ⟨w, u, hpop, hu⟩ | ⟨-, hu⟩ := execRet_cases s
    · obtain ⟨-, -, hrun, -⟩ := keepsAllBut_pop hpop
      refine ⟨_, hu, .completes ?_ (.inl hrun)⟩
      rw [State.setPc_pc, BitVec.toNat_add, State.pop_eq_getD hpop]; rfl
    · exact ⟨_, hu, .raises _ rfl keep⟩
  | bcd x =>
    obtain ⟨-, hu⟩ | ⟨-, hu⟩ := execBcd_cases x s
    · exact ⟨_, hu, .completes (State.toNat_pc_advance (State.copyBytes_pc ..)) (.inl (State.copyBytes_run ..))⟩
    · exact ⟨_, hu, .raises _ (State.copyBytes_pc ..) (keep.copyBytes (by simp) _ _)⟩
  | stRegs x =>
    obtain ⟨-, hu⟩ | ⟨-, hu⟩ := execStRegs_cases x s
    · exact ⟨_, hu, .completes (State.toNat_pc_advance (State.copyBytes_pc ..)) (.inl (State.copyBytes_run ..))⟩
    · exact ⟨_, hu, .raises _ (State.copyBytes_pc ..) (keep.copyBytes (by simp) _ _)⟩
  | ldRegs x =>
    obtain ⟨-, hu⟩ | ⟨-, hu⟩ := execLdRegs_cases x s
    · exact ⟨_, hu, .completes (State.toNat_pc_advance (State.loaded_pc ..)) (.inl (State.loaded_run ..))⟩
    · exact ⟨_, hu, .raises _ (State.loaded_pc ..) (keep.loaded _ _)⟩
  | drw x y n =>
    obtain ⟨-, hu⟩ | ⟨-, -, hu⟩ := execDrw_cases x y n s
    · exact ⟨_, hu, .completes (State.toNat_pc_advance (State.flips_pc ..)) (.inl (State.flips_run ..))⟩
    · exact ⟨_, hu, .raises _ (State.flips_pc ..) ((keep.setV VF 0#8).flips (by simp) _)⟩

theorem ends_of_exec {i : Instr} {s t : State} (h : exec i s = .next t) : Ends i s t := by
  obtain ⟨u, hu, hends⟩ := exec_ends i s
  exact next_state_unique hu h ▸ hends

theorem pcAfter_of_completes {i : Instr} {s t : State} (h : exec i s = .next t) (ht : t.isHalted = false) :
    t.pc.toNat = i.pcAfter s := by
  cases ends_of_exec h with
  | completes hpc => exact hpc
  | raises => cases ht

theorem exec_raises {i : Instr} {s t : State} (hs : s.isHalted = false) (h : exec i s = .next t) (ht : t.isHalted = true) :
    ∃ u c, t = u.raise c ∧ u.pc = s.pc ∧ KeepsAllBut [.memory, .framebuffer] s u := by
  cases ends_of_exec h with
  | raises c hpc keep => exact ⟨_, c, rfl, hpc, keep⟩
  | completes _ hrun =>
    obtain hkept | ⟨x, -, rfl⟩ := hrun
    · rw [State.isHalted_of_run_eq hkept, hs] at ht; cases ht
    · cases ht

/-! ## How a cycle ends (R60 to R68) -/

theorem State.endCycle_eq (s : State) : s.endCycle = if s.isHalted then s else s.tick := by
  cases h : s.isHalted with
  | false => exact State.endCycle_of_not_halted h
  | true => obtain ⟨e, he⟩ := State.isHalted_iff.1 h; exact State.endCycle_of_halted he

theorem State.isHalted_endCycle (s : State) : s.endCycle.isHalted = s.isHalted := by
  rw [State.endCycle_eq]
  split
  · rfl
  · exact State.isHalted_of_run_eq s.tick_run

@[simp] theorem State.endCycle_raise (s : State) (c : ErrorCause) : (s.raise c).endCycle = s.raise c := rfl

theorem State.isHalted_waitStep (x : Reg) (prev : KeyVector) (s : State) : (s.waitStep x prev).isHalted = false := by
  obtain ⟨k, -, hw⟩ | ⟨-, hw⟩ := State.waitStep_cases x prev s <;> rw [hw] <;> rfl

section Cycle

variable {s u : State} {op w : Word} {i : Instr} {c : ErrorCause} {x : Reg} {prev : KeyVector}

theorem step_of_exec (hrun : s.run = .running) (hf : s.fetch = .word op) (hd : decodeWord op = .instr i)
    (he : exec i s.beginCycle = .next u) : step s = .next u.endCycle := by
  rw [step_running hrun, runInstruction_instr (s.beginCycle_fetch.trans hf) hd, he, endCycleOf_next]

theorem step_of_fetch_stopped (hrun : s.run = .running) (hf : s.fetch = .stopped c) :
    step s = .next (s.beginCycle.raise c) := by
  simp [step_running hrun, runInstruction, hf]

theorem step_of_unknownOpcode (hrun : s.run = .running) (hf : s.fetch = .word op) (hd : decodeWord op = .unknownOpcode w) :
    step s = .next (s.beginCycle.raise (.unknownOpcode w)) := by
  simp [step_running hrun, runInstruction, execWord, hf, hd]

theorem step_of_waiting (hrun : s.run = .waitingForKey x prev) : step s = .next (s.beginCycle.waitStep x prev).tick := by
  rw [step_waiting hrun, State.endCycle_of_not_halted (State.isHalted_waitStep ..)]

end Cycle

/-- How a cycle from `s` can end: as it was when Halted, after the waiting step and a tick, with what the fetch or the decoder
raised, or with the end of the decoded instruction. -/
inductive CycleEnds (s : State) : State → Prop
  | halted (h : s.isHalted = true) : CycleEnds s s
  | waited {x : Reg} {prev : KeyVector} (hrun : s.run = .waitingForKey x prev) :
      CycleEnds s (s.beginCycle.waitStep x prev).tick
  | stopped (c : ErrorCause) (hrun : s.run = .running) : CycleEnds s (s.beginCycle.raise c)
  | executed {op : Word} {i : Instr} {u : State} (hrun : s.run = .running) (hf : s.fetch = .word op)
      (hd : decodeWord op = .instr i) (he : exec i s.beginCycle = .next u) : CycleEnds s u.endCycle

theorem step_ends (s : State) : ∃ t, step s = .next t ∧ CycleEnds s t := by
  cases hrun : s.run with
  | halted e => exact ⟨s, step_halted hrun, .halted (State.isHalted_iff.2 ⟨e, hrun⟩)⟩
  | waitingForKey x prev => exact ⟨_, step_of_waiting hrun, .waited hrun⟩
  | running =>
    cases hf : s.fetch with
    | stopped c => exact ⟨_, step_of_fetch_stopped hrun hf, .stopped c hrun⟩
    | word op =>
      cases hd : decodeWord op with
      | unknownOpcode w => exact ⟨_, step_of_unknownOpcode hrun hf hd, .stopped _ hrun⟩
      | instr i =>
        obtain ⟨u, hu, -⟩ := exec_ends i s.beginCycle
        exact ⟨_, step_of_exec hrun hf hd hu, .executed hrun hf hd hu⟩

theorem cycleEnds_of_step {s t : State} (h : step s = .next t) : CycleEnds s t := by
  obtain ⟨u, hu, hends⟩ := step_ends s
  exact next_state_unique hu h ▸ hends

/-! ## What the start and the end of a cycle write -/

theorem keepsAllBut_beginCycle (s : State) : KeepsAllBut [.keyTable, .hostInputs, .flags] s s.beginCycle := by
  apply KeepsAllBut.of_fields <;> simp

theorem keepsAllBut_tick (s : State) : KeepsAllBut [.delayTimer, .soundTimer, .flags] s s.tick := by
  apply KeepsAllBut.of_fields <;> simp

/-- A cycle that ends Halted, and did not begin so, ends in a raise, before which only these pieces were written. -/
theorem step_raises {s t : State} (hs : s.isHalted = false) (h : step s = .next t) (ht : t.isHalted = true) :
    ∃ u c, t = u.raise c ∧ u.pc = s.pc ∧ KeepsAllBut [.flags, .keyTable, .hostInputs, .memory, .framebuffer] s u := by
  have keep := keepsAllBut_beginCycle s
  cases cycleEnds_of_step h with
  | halted hs' => rw [hs] at hs'; cases hs'
  | waited =>
    rw [State.isHalted_of_run_eq (State.tick_run _), State.isHalted_waitStep] at ht
    cases ht
  | stopped c => exact ⟨_, c, rfl, s.beginCycle_pc, keep.mono (by simp)⟩
  | @executed op i u hrun hf hd he =>
    rw [State.isHalted_endCycle] at ht
    obtain ⟨v, c, rfl, hpc, hkeep⟩ := exec_raises ((State.isHalted_of_run_eq s.beginCycle_run).trans hs) he ht
    exact ⟨v, c, rfl, hpc.trans s.beginCycle_pc, (keep.mono (by simp)).trans (hkeep.mono (by simp))⟩

theorem State.beginCycle_of_cons {s : State} {k : KeyVector} {ks : List KeyVector} (h : s.keyInputs = k :: ks) :
    s.beginCycle.keys = k ∧ s.beginCycle.keyInputs = ks := by
  simp [State.beginCycle, State.presentKeys, h]

theorem State.beginCycle_of_nil {s : State} (h : s.keyInputs = []) :
    s.beginCycle.keys = Config.freeKeys s.cycles ∧ s.beginCycle.keyInputs = [] := by
  simp [State.beginCycle, State.presentKeys, h]

theorem stoppedBy_raise {s u : State} (hpc : u.pc = s.pc) (c : ErrorCause) : StoppedBy c s (u.raise c) :=
  ⟨by rw [State.raise_run, hpc], hpc, rfl⟩

theorem State.cycleResult_of_halted {s : State} {e : ErrorRecord} (h : s.run = .halted e) : s.cycleResult = .err e := by
  simp [State.cycleResult, h]

/-! ## The waiting step (R112) -/

theorem leastKey_of_least {m : KeyVector} {k : Reg} (hk : m.getLsbD k.val = true)
    (hleast : ∀ j < k, ¬ m.getLsbD j.val = true) : leastKey m = some k := by
  cases h : leastKey m with
  | none => rw [leastKey_eq_none.1 h k] at hk; cases hk
  | some j =>
    obtain ⟨hj, hbelow⟩ := leastKey_eq_some h
    rcases lt_trichotomy j k with hlt | rfl | hgt
    · exact absurd hj (hleast j hlt)
    · rfl
    · rw [hbelow k hgt] at hk; cases hk

/-- The least newly pressed key ends the wait. -/
theorem State.waitStep_of_least {x : Reg} {prev : KeyVector} {s : State} {k : Reg} (hk : s.key k = true)
    (hprev : prev.getLsbD k.val = false) (hleast : ∀ j < k, ¬ (s.key j = true ∧ prev.getLsbD j.val = false)) :
    s.waitStep x prev = (s.setV x (BitVec.ofNat 8 k.val)).advance.setRun .running := by
  have hfirst : leastKey (newlyPressed prev s.keys) = some k := by
    apply leastKey_of_least <;> simp only [getLsbD_newlyPressed, Bool.and_eq_true, Bool.not_eq_true']
    · exact ⟨hk, hprev⟩
    · exact hleast
  simp only [State.waitStep, hfirst]

section Waiting

variable (x : Reg) (prev : KeyVector) (s : State)

theorem keepsAllBut_waitStep : KeepsAllBut [.runState] s (s.waitStep x prev) := by
  have keep := KeepsAllBut.refl [.runState] s
  obtain ⟨k, -, hw⟩ | ⟨-, hw⟩ := State.waitStep_cases x prev s <;> rw [hw]
  · exact (keep.setV _ _).advance.setRun (by simp) _
  · exact keep.setRun (by simp) _

@[simp] theorem State.waitStep_dt : (s.waitStep x prev).dt = s.dt := keepsAllBut_waitStep x prev s .delayTimer (by simp)
@[simp] theorem State.waitStep_st : (s.waitStep x prev).st = s.st := keepsAllBut_waitStep x prev s .soundTimer (by simp)
@[simp] theorem State.waitStep_out : (s.waitStep x prev).out = s.out := keepsAllBut_waitStep x prev s .flags (by simp)

/-- The pieces a waiting cycle may write. -/
abbrev waitingWrites : List Piece := [.runState, .delayTimer, .soundTimer, .flags, .keyTable, .hostInputs]

theorem keepsAllBut_waitingCycle : KeepsAllBut waitingWrites s (s.beginCycle.waitStep x prev).tick :=
  (((keepsAllBut_beginCycle s).mono (by simp)).trans ((keepsAllBut_waitStep x prev s.beginCycle).mono (by simp))).trans
    ((keepsAllBut_tick _).mono (by simp))

theorem waitingCycle_timers : (s.beginCycle.waitStep x prev).tick.dt.toNat = s.dt.toNat - 1 ∧
    (s.beginCycle.waitStep x prev).tick.st.toNat = s.st.toNat - 1 := by
  rw [State.tick_dt, State.tick_st, State.waitStep_dt, State.waitStep_st, State.beginCycle_dt, State.beginCycle_st]
  exact ⟨countdown_toNat _, countdown_toNat _⟩

theorem waitingCycle_out : (s.beginCycle.waitStep x prev).tick.out = ⟨false, false, decide (s.st = 1#8)⟩ := by
  by_cases h : s.st = 1#8 <;> simp [State.tick, Outputs.none, h]

end Waiting

/-! ## The key table (R70, R122): every other operation does the same under another one -/

/-- The same state under another key table. -/
def State.withKeys (s : State) (ks : KeyVector) : State := { s with keys := ks }

/-- The same accesses under another key table. -/
def Progress.withKeys (ks : KeyVector) : Progress → Progress
  | .done s => .done (s.withKeys ks)
  | .stopped c s => .stopped c (s.withKeys ks)

section Keys

variable (ks : KeyVector)

@[simp] theorem State.withKeys_memRead (s : State) (a : Nat) : (s.withKeys ks).memRead a = s.memRead a := rfl

theorem State.memWrite_withKeys (s : State) (a : Nat) (b : Byte) :
    (s.withKeys ks).memWrite a b = (s.memWrite a b).map (·.withKeys ks) := by
  by_cases ha : a < memSize <;> simp [State.memWrite, State.poke, State.unlisted, State.withKeys, ha]

theorem State.push_withKeys (s : State) (w : Word) : (s.withKeys ks).push w = (s.push w).map (·.withKeys ks) := by
  by_cases hsp : s.sp.val < 16 <;> simp [State.push, State.withKeys, hsp]

theorem State.pop_withKeys (s : State) : (s.withKeys ks).pop = s.pop.map (Prod.map id (·.withKeys ks)) := by
  by_cases hsp : s.sp.val = 0 <;> simp [State.pop, State.withKeys, hsp]

theorem State.flipPixel_withKeys (s : State) (k : Fin 2048) :
    (s.withKeys ks).flipPixel k = (s.flipPixel k).withKeys ks := by
  have hpixel : (s.withKeys ks).getPixel k = s.getPixel k := rfl
  unfold State.flipPixel
  rw [hpixel]
  split <;> rfl

theorem State.drawRow_withKeys (x0 y : Nat) (sprite : Byte) (cols : List Nat) (s : State) :
    State.drawRow x0 y sprite cols (s.withKeys ks) = (State.drawRow x0 y sprite cols s).withKeys ks := by
  induction cols generalizing s with
  | nil => rfl
  | cons col cols ih => rw [State.drawRow, State.drawRow, ← ih, State.flipPixel_withKeys, apply_ite (State.withKeys · ks)]

theorem State.storeBytes_withKeys (bs : List Byte) (a : Nat) (s : State) :
    State.storeBytes bs a (s.withKeys ks) = (State.storeBytes bs a s).withKeys ks := by
  induction bs generalizing a s with
  | nil => rfl
  | cons b bs ih =>
    rw [State.storeBytes, State.storeBytes, State.memWrite_withKeys]
    cases s.memWrite a b with
    | none => rfl
    | some t => exact ih (a + 1) t

theorem State.loadRegs_withKeys (rs : List Reg) (a : Nat) (s : State) :
    State.loadRegs rs a (s.withKeys ks) = (State.loadRegs rs a s).withKeys ks := by
  induction rs generalizing a s with
  | nil => rfl
  | cons r rs ih =>
    rw [State.loadRegs, State.loadRegs, State.withKeys_memRead]
    cases s.memRead a with
    | none => rfl
    | some b => exact ih (a + 1) (s.setV r b)

theorem State.drawRows_withKeys (x0 y0 count row : Nat) (s : State) :
    State.drawRows x0 y0 count row (s.withKeys ks) = (State.drawRows x0 y0 count row s).withKeys ks := by
  have hi : (s.withKeys ks).i = s.i := rfl
  induction count generalizing row s with
  | zero => rfl
  | succ count ih =>
    rw [State.drawRows, State.drawRows, hi, State.withKeys_memRead]
    cases s.memRead (s.i.toNat + row) with
    | none => rfl
    | some sprite => simp only [State.drawRow_withKeys]; exact ih _ _ rfl

variable {ks}

theorem Progress.finish_withKeys {p : Progress} {k : State → State} {t : State}
    (hk : ∀ s : State, k (s.withKeys ks) = (k s).withKeys ks) (h : p.finish k = .next t) :
    (p.withKeys ks).finish k = .next (t.withKeys ks) := by
  cases p with
  | done s => obtain rfl := next_state_unique h rfl; exact congrArg _ (hk s)
  | stopped c s => obtain rfl := next_state_unique h rfl; rfl

theorem exec_withKeys {i : Instr} {s t : State} (hi : i.readsKeys = false) (h : exec i s = .next t) :
    exec i (s.withKeys ks) = .next (t.withKeys ks) := by
  cases i with
  | skp | sknp | ldVxK => cases hi
  | cls | jp | seImm | sneImm | seReg | ldImm | addImm | ldReg | orReg | andReg | xorReg | addReg | subReg | shr | subn | shl
  | sneReg | ldI | jpV0 | rnd | ldVxDt | ldDtVx | ldStVx | addI | ldF => obtain rfl := next_state_unique h rfl; rfl
  | call nnn =>
    have hpush : (s.withKeys ks).push (s.withKeys ks).pc = (s.push s.pc).map (·.withKeys ks) := State.push_withKeys ..
    simp only [exec, execCall, hpush] at h ⊢
    cases hp : s.push s.pc <;> rw [hp] at h <;> obtain rfl := next_state_unique h rfl <;> rfl
  | ret =>
    simp only [exec, execRet, State.pop_withKeys] at h ⊢
    cases hp : s.pop <;> rw [hp] at h <;> obtain rfl := next_state_unique h rfl <;> rfl
  | bcd x =>
    have hw := Progress.finish_withKeys (ks := ks) (k := State.advance) (fun _ => rfl) h
    rwa [← State.storeBytes_withKeys] at hw
  | stRegs x =>
    have hw := Progress.finish_withKeys (ks := ks) (k := State.advance) (fun _ => rfl) h
    rwa [← State.storeBytes_withKeys] at hw
  | ldRegs x =>
    have hw := Progress.finish_withKeys (ks := ks) (k := State.advance) (fun _ => rfl) h
    rwa [← State.loadRegs_withKeys] at hw
  | drw x y n =>
    have hw := Progress.finish_withKeys (ks := ks) (k := State.endDraw) (fun _ => rfl) h
    rwa [← State.drawRows_withKeys] at hw

end Keys

/-! ## The invariant -/

/-- Every occupied slot holds the address of a call, at which a word can be fetched (R24, R88). -/
def State.ReturnsFetchable (s : State) : Prop := ∀ k : Fin 16, k.val < s.sp.val → (s.slot k).toNat + 1 < memSize

/-- The clauses of the invariant that do not speak of the run state. -/
structure State.DataInv (s : State) : Prop where
  memory : s.MemWf
  pcBound : s.pc.toNat ≤ 0x10FE
  returns : s.ReturnsFetchable

theorem State.Inv.data {s : State} (h : s.Inv) : s.DataInv := ⟨h.memory, h.pcBound, h.returns⟩

theorem State.ReturnsFetchable.of_same {s t : State} (h : s.ReturnsFetchable) (hstack : Piece.callStack.Same s t) :
    t.ReturnsFetchable := by
  intro k hk
  rw [hstack.1] at hk
  rw [hstack.2 k]
  exact h k hk

theorem State.DataInv.of_fields {s t : State} (h : s.DataInv) (hm : t.mem = s.mem) (hp : t.params = s.params)
    (hpc : t.pc = s.pc) (hsp : t.sp = s.sp) (hstack : t.stack = s.stack) : t.DataInv where
  memory := h.memory.of_fields hm hp
  pcBound := hpc ▸ h.pcBound
  returns := h.returns.of_same ⟨hsp, fun k => by simp only [State.slot, hstack]⟩

theorem State.DataInv.beginCycle {s : State} (h : s.DataInv) : s.beginCycle.DataInv := by
  apply h.of_fields <;> simp

theorem State.DataInv.setRun {s : State} (h : s.DataInv) (r : RunState) : (s.setRun r).DataInv :=
  h.of_fields rfl rfl rfl rfl rfl

theorem State.DataInv.inv_raise {s : State} (h : s.DataInv) (c : ErrorCause) : (s.raise c).Inv where
  memory := h.memory
  pcBound := h.pcBound
  returns := h.returns
  waiting := nofun
  halted := by rintro _ ⟨⟩; exact ⟨rfl, rfl⟩

theorem State.DataInv.inv_of_running {s : State} (h : s.DataInv) (hrun : s.run = .running) : s.Inv where
  memory := h.memory
  pcBound := h.pcBound
  returns := h.returns
  waiting := by simp [hrun]
  halted := by simp [hrun]

theorem State.DataInv.inv_of_waiting {s : State} {x : Reg} {prev : KeyVector} {op : Word} (h : s.DataInv)
    (hrun : s.run = .waitingForKey x prev) (hf : s.fetch = .word op) (hd : decodeWord op = .instr (.ldVxK x)) : s.Inv where
  memory := h.memory
  pcBound := h.pcBound
  returns := h.returns
  waiting := by
    intro y prev' hrun'
    obtain ⟨rfl, -⟩ := RunState.waitingForKey.inj (hrun.symm.trans hrun')
    exact ⟨op, hf, hd⟩
  halted := by simp [hrun]

/-- A tick writes the timers and a flag, of which the invariant says something only of a halted engine. -/
theorem State.Inv.endCycle {s : State} (h : s.Inv) : s.endCycle.Inv := by
  rw [State.endCycle_eq]
  split <;> rename_i hhalted
  · exact h
  · exact
      { memory := h.memory, pcBound := h.pcBound, returns := h.returns, waiting := h.waiting
        halted := fun e he => absurd (State.isHalted_iff.2 ⟨e, he⟩) hhalted }

/-! Every instruction keeps the canonical form of memory (log 20). -/

theorem exec_memWf {i : Instr} {s t : State} (hwf : s.MemWf) (h : exec i s = .next t) : t.MemWf := by
  cases i with
  | cls | jp | seImm | sneImm | seReg | ldImm | addImm | ldReg | orReg | andReg | xorReg | addReg | subReg | shr | subn | shl
  | sneReg | ldI | jpV0 | rnd | skp | sknp | ldVxDt | ldVxK | ldDtVx | ldStVx | addI | ldF =>
    obtain rfl := next_state_unique h rfl
    exact hwf
  | call nnn =>
    obtain ⟨u, hpush, hu⟩ | ⟨-, hu⟩ := execCall_cases nnn s <;> obtain rfl := next_state_unique h hu
    · obtain ⟨-, -, -, heq⟩ := State.push_eq_some hpush
      exact hwf.of_fields (by rw [heq]; rfl) (by rw [heq]; rfl)
    · exact hwf
  | ret =>
    obtain ⟨w, u, hpop, hu⟩ | ⟨-, hu⟩ := execRet_cases s <;> obtain rfl := next_state_unique h hu
    · obtain ⟨-, -, -, heq⟩ := State.pop_eq_some hpop
      exact hwf.of_fields (by rw [heq]; rfl) (by rw [heq]; rfl)
    · exact hwf
  | bcd x =>
    have hlen : (decimalDigits (s.getV x)).length = 3 := rfl
    have haddr : s.dataAddr 2 = s.dataAddr 0 + 2 := rfl
    obtain ⟨hlt, hu⟩ | ⟨-, hu⟩ := execBcd_cases x s <;> obtain rfl := next_state_unique h hu
    · exact State.copyBytes_memWf hwf (by omega)
    · exact State.copyBytes_take_memWf hwf
  | stRegs x =>
    have hlen := s.length_valuesUpTo x
    have haddr : s.dataAddr x.val = s.dataAddr 0 + x.val := rfl
    obtain ⟨hlt, hu⟩ | ⟨-, hu⟩ := execStRegs_cases x s <;> obtain rfl := next_state_unique h hu
    · exact State.copyBytes_memWf hwf (by omega)
    · exact State.copyBytes_take_memWf hwf
  | ldRegs x =>
    obtain ⟨-, hu⟩ | ⟨-, hu⟩ := execLdRegs_cases x s <;> obtain rfl := next_state_unique h hu <;>
      exact hwf.of_fields (by simp) (by simp)
  | drw x y n =>
    obtain ⟨-, hu⟩ | ⟨-, -, hu⟩ := execDrw_cases x y n s <;> obtain rfl := next_state_unique h hu <;>
      exact hwf.of_fields (by simp) (by simp)

/-! A call pushes the address it was fetched from, and a return keeps the slots below it (R88, R89). -/

theorem State.ReturnsFetchable.push {s u : State} {w : Word} (h : s.ReturnsFetchable) (hw : w.toNat + 1 < memSize)
    (hpush : s.push w = some u) : u.ReturnsFetchable := by
  intro k hk
  obtain ⟨-, hsp, hslot, -⟩ := State.push_eq_some hpush
  rw [hslot k]
  split <;> rename_i hne
  · exact hw
  · exact h k (by omega)

theorem State.ReturnsFetchable.pop {s u : State} {w : Word} (h : s.ReturnsFetchable) (hpop : s.pop = some (w, u)) :
    u.ReturnsFetchable ∧ w.toNat + 1 < memSize := by
  obtain ⟨hpos, hsp, hw, heq⟩ := State.pop_eq_some hpop
  refine ⟨fun k hk => ?_, ?_⟩
  · rw [heq]; exact h k (by omega)
  · have hlt : s.sp.val - 1 < 16 := by omega
    rw [hw ⟨s.sp.val - 1, hlt⟩ rfl]
    exact h _ (Nat.sub_lt hpos Nat.one_pos)

theorem exec_returnsFetchable {i : Instr} {s t : State} (h : s.ReturnsFetchable) (hpc : s.pc.toNat + 1 < memSize)
    (hs : s.isHalted = false) (hx : exec i s = .next t) (ht : t.isHalted = false) : t.ReturnsFetchable := by
  cases i with
  | call nnn =>
    obtain ⟨u, hpush, hu⟩ | ⟨-, hu⟩ := execCall_cases nnn s
    · obtain rfl := next_state_unique hx hu
      exact (h.push hpc hpush).of_same ⟨rfl, fun _ => rfl⟩
    · exact (not_raised_of_completes hx ht hu).elim
  | ret =>
    obtain ⟨w, u, hpop, hu⟩ | ⟨-, hu⟩ := execRet_cases s
    · obtain rfl := next_state_unique hx hu
      exact (h.pop hpop).1
    · exact (not_raised_of_completes hx ht hu).elim
  | _ => exact h.of_same (eachPieceHasItsWriters _ s t hs hx ht .callStack (by simp [Instr.touches]))

/-! The table of R64 never names an address past the largest target of BNNN (R94, D5). -/

theorem State.pcSkipping_le {s : State} (hpc : s.pc.toNat + 1 < memSize) (c : Bool) : s.pcSkipping c ≤ 0x10FE := by
  unfold memSize at hpc
  unfold State.pcSkipping
  split <;> omega

theorem pcAfter_le {i : Instr} {s : State} (hwf : i.WellFormed) (hpc : s.pc.toNat + 1 < memSize)
    (hret : i = .ret → ∃ w u, s.pop = some (w, u) ∧ w.toNat + 1 < memSize) : i.pcAfter s ≤ 0x10FE := by
  cases i with
  | jp nnn | call nnn =>
    have hnnn : nnn.toNat < 0x1000 := of_decide_eq_true hwf
    show nnn.toNat ≤ 0x10FE
    omega
  | jpV0 nnn =>
    have hnnn : nnn.toNat < 0x1000 := of_decide_eq_true hwf
    have hv := (s.getV 0).isLt
    show (nnn.toNat + (s.getV 0).toNat) % 65536 ≤ 0x10FE
    omega
  | ret =>
    obtain ⟨w, u, hpop, hw⟩ := hret rfl
    unfold memSize at hw
    rw [Instr.pcAfter, ← State.pop_eq_getD hpop]
    omega
  | ldVxK =>
    unfold memSize at hpc
    show s.pc.toNat ≤ 0x10FE
    omega
  | _ => exact State.pcSkipping_le hpc _

theorem exec_dataInv {i : Instr} {s t : State} {op : Word} (h : s.DataInv) (hf : s.fetch = .word op)
    (hd : decodeWord op = .instr i) (hs : s.isHalted = false) (hx : exec i s = .next t) (ht : t.isHalted = false) :
    t.DataInv where
  memory := exec_memWf h.memory hx
  pcBound := by
    rw [pcAfter_of_completes hx ht]
    refine pcAfter_le (encodeOfDecodeIsIdentity op i hd).2 (State.fetch_word_bound hf) ?_
    rintro rfl
    obtain ⟨w, u, hpop, -⟩ | ⟨-, hu⟩ := execRet_cases s
    · exact ⟨w, u, hpop, (h.returns.pop hpop).2⟩
    · exact (not_raised_of_completes hx ht hu).elim
  returns := exec_returnsFetchable h.returns (State.fetch_word_bound hf) hs hx ht

theorem exec_inv {i : Instr} {s t : State} {op : Word} (h : s.DataInv) (hrun : s.run = .running) (hf : s.fetch = .word op)
    (hd : decodeWord op = .instr i) (hx : exec i s = .next t) : t.Inv := by
  cases ends_of_exec hx with
  | @raises u c hpc keep =>
    have hu : u.DataInv :=
      { memory := (exec_memWf h.memory hx).of_fields rfl rfl
        pcBound := hpc ▸ h.pcBound
        returns := h.returns.of_same (keep .callStack (by simp)) }
    exact hu.inv_raise c
  | completes _ hend =>
    obtain hkept | ⟨x, rfl, rfl⟩ := hend
    · have hs : s.isHalted = false := by simp [State.isHalted, hrun]
      have ht := (State.isHalted_of_run_eq hkept).trans hs
      exact (exec_dataInv h hf hd hs hx ht).inv_of_running (hkept.trans hrun)
    · exact (h.setRun _).inv_of_waiting rfl hf hd

theorem waitStep_inv {x : Reg} {prev : KeyVector} {s : State} {op : Word} (h : s.DataInv) (hf : s.fetch = .word op)
    (hd : decodeWord op = .instr (.ldVxK x)) : (s.waitStep x prev).Inv := by
  obtain ⟨k, -, hw⟩ | ⟨-, hw⟩ := State.waitStep_cases x prev s <;> rw [hw]
  · have hpast : (s.setV x (BitVec.ofNat 8 k.val)).advance.DataInv :=
      { memory := h.memory
        pcBound := by
          rw [State.toNat_pc_advance (State.setV_pc ..)]
          exact State.pcSkipping_le (State.fetch_word_bound hf) false
        returns := h.returns }
    exact (hpast.setRun _).inv_of_running rfl
  · exact (h.setRun _).inv_of_waiting rfl hf hd

/-! ## Runs of waiting cycles -/

/-- A waiting cycle whose queued vector presses no key anew. -/
theorem step_of_wait_goes_on {s : State} {x : Reg} {prev now : KeyVector} {later : List KeyVector}
    (hrun : s.run = .waitingForKey x prev) (hq : s.keyInputs = now :: later)
    (hnone : ∀ k : Reg, now.getLsbD k.val = true → prev.getLsbD k.val = true) :
    ∃ t, step s = .next t ∧ t.run = .waitingForKey x now ∧ t.pc = s.pc ∧ t.dt.toNat = s.dt.toNat - 1 ∧
      t.st.toNat = s.st.toNat - 1 ∧ t.keyInputs = later ∧ KeepsRegsBut (fun _ => False) s t ∧
      KeepsAllBut waitingWrites s t := by
  obtain ⟨hkeys, hrest⟩ := State.beginCycle_of_cons hq
  obtain ⟨hdt, hst⟩ := waitingCycle_timers x prev s
  have keep := keepsAllBut_waitingCycle x prev s
  have hwait := State.waitStep_of_none (x := x) (s := s.beginCycle) (hkeys.symm ▸ hnone)
  refine ⟨_, step_of_waiting hrun, ?_, ?_, hdt, hst, ?_, ?_, keep⟩ <;> rw [hwait]
  · rw [State.tick_run, State.setRun_run, hkeys]
  · simp
  · simpa using hrest
  · exact KeepsRegsBut.of_v (by simp) _

end Sys2Proof.Machine

open Sys2Proof Sys2Proof.Machine

/-- Settles O17: a halted cycle changes nothing; every other one keeps the clauses on the data, and ends running, at the FX0A
that waits, or with the record of the error it raised. -/
theorem stepKeepsTheInvariant : Obligations.StepKeepsTheInvariant := by
  intro s t hinv h
  have hbegin := hinv.data.beginCycle
  cases cycleEnds_of_step h with
  | halted => exact hinv
  | stopped c => exact hbegin.inv_raise c
  | @waited x prev hrun =>
    obtain ⟨op, hf, hd⟩ := hinv.waiting x prev hrun
    rw [← State.endCycle_of_not_halted (State.isHalted_waitStep ..)]
    exact (waitStep_inv hbegin (s.beginCycle_fetch.trans hf) hd).endCycle
  | executed hrun hf hd he =>
    exact (exec_inv hbegin (s.beginCycle_run.trans hrun) (s.beginCycle_fetch.trans hf) hd he).endCycle

/-- Settles O10: by induction on the number of cycles. -/
theorem haltedIsAbsorbing : Obligations.HaltedIsAbsorbing := by
  intro s e n hrun
  refine ⟨?_, State.cycleResult_of_halted hrun⟩
  induction n with
  | zero => rfl
  | succ n ih => rw [core_run_succ (step_halted hrun), ih]

/-- Settles O11: whichever way the waiting step goes, the tick and the frame are the same. -/
theorem waitingCycle : Obligations.WaitingCycle := by
  intro s x prev hrun
  obtain ⟨hdt, hst⟩ := waitingCycle_timers x prev s
  have hout := waitingCycle_out x prev s
  refine ⟨_, step_of_waiting hrun, fun hnone => ?_, fun k hk hprev hleast => ?_, hdt, hst, ?_, ?_, ?_,
    keepsAllBut_waitingCycle x prev s⟩
  · have hheld : ∀ k : Reg, s.beginCycle.keys.getLsbD k.val = true → prev.getLsbD k.val = true := fun k hk => by
      simpa [State.key, hk] using hnone k
    rw [State.waitStep_of_none hheld]
    exact ⟨rfl, by simp, KeepsRegsBut.of_v (by simp) _⟩
  · rw [State.waitStep_of_least hk hprev hleast]
    have keep := (KeepsRegsBut.of_v s.beginCycle_v (· = x)).setV rfl (BitVec.ofNat 8 k.val)
    refine ⟨rfl, by simp, ?_, keep.trans_v_eq rfl⟩
    simp only [State.tick_getV, State.setRun_getV, State.advance_getV, State.getV_setV_same]
    exact toNat_byte_of_lt (by omega)
  · rw [hout, decide_eq_true_iff]
  · rw [hout]
  · rw [hout]

/-- Settles O12: by induction on the presented vectors; each becomes the snapshot for the next. -/
theorem waitLastsWhileNoKeyIsPressed : Obligations.WaitLastsWhileNoKeyIsPressed := by
  intro s x prev presented rest hrun hq hnone
  induction presented generalizing s prev with
  | nil => exact ⟨s, rfl, hrun, rfl, rfl, rfl, hq, KeepsRegsBut.refl _ s, KeepsAllBut.refl _ s⟩
  | cons now later ih =>
    obtain ⟨hnow, hlater⟩ := hnone
    obtain ⟨t, hstep, hrun', hpc, hdt, hst, hq', hregs, hkeep⟩ := step_of_wait_goes_on hrun hq hnow
    obtain ⟨u, hsteps, hurun, hupc, hudt, hust, huq, huregs, hukeep⟩ := ih t now hrun' hq' hlater
    refine ⟨u, (core_run_succ hstep _).trans hsteps, ?_, hupc.trans hpc, ?_, ?_, huq, hregs.trans huregs,
      hkeep.trans hukeep⟩
    · rw [List.getLastD_cons, hurun]
    · rw [List.length_cons]; omega
    · rw [List.length_cons]; omega

/-- Settles O14: every end of an instruction and of a cycle is a state. -/
theorem everyCycleEndsInANextState : Obligations.EveryCycleEndsInANextState := by
  refine ⟨fun i s => ?_, fun s => ?_⟩
  · obtain ⟨t, ht, -⟩ := exec_ends i s
    exact ⟨t, ht⟩
  · obtain ⟨t, ht, -⟩ := step_ends s
    exact ⟨t, ht⟩

/-- Settles O15: a cycle that ends Halted ended in a raise, by the fetch, the decoder or the instruction. -/
theorem errorCycleKeepsPcTimersAndStack : Obligations.ErrorCycleKeepsPcTimersAndStack := by
  intro s t e hs h hrun
  obtain ⟨u, c, rfl, hpc, keep⟩ := step_raises hs h (State.isHalted_iff.2 ⟨e, hrun⟩)
  have hstopped := stoppedBy_raise hpc c
  obtain rfl : ⟨c, some s.pc⟩ = e := RunState.halted.inj (hstopped.run.symm.trans hrun)
  exact ⟨rfl, hpc, rfl, State.cycleResult_of_halted hrun, (keep.mono (by simp)).raise (by simp) (by simp) c⟩

/-- Settles O21: the table of R64 is what `Ends` says of an instruction that completes. -/
theorem pcFollowsTheTable : Obligations.PcFollowsTheTable :=
  fun _ _ _ _ h ht => pcAfter_of_completes h ht

/-- Settles O22: every operation but the three instructions commutes with a change of the key table. -/
theorem onlyKeyInstructionsSeeTheKeys : Obligations.OnlyKeyInstructionsSeeTheKeys :=
  fun _ _ _ _ hi h => exec_withKeys hi h

/-- Settles O8: the start of the cycle by its frame, the end by whether an error was raised. -/
theorem stepRunsTheDecodedInstruction : Obligations.StepRunsTheDecodedInstruction := by
  intro s op i hrun hf hd
  refine ⟨⟨s.beginCycle_out, KeepsRegsBut.of_v s.beginCycle_v _, s.beginCycle_pc, keepsAllBut_beginCycle s,
    s.beginCycle_cycles⟩, fun k ks => State.beginCycle_of_cons, State.beginCycle_of_nil, fun t ht => ?_⟩
  rw [step_of_exec hrun hf hd ht, State.endCycle_eq]

/-- Settles O9: in both cases the cycle is its start followed by the raise. -/
theorem fetchAndDecodeErrorsStopTheCycle : Obligations.FetchAndDecodeErrorsStopTheCycle := by
  intro s c hrun hcause
  have hstep : step s = .next (s.beginCycle.raise c) := by
    obtain hf | ⟨op, hf, hd, rfl⟩ := hcause
    · exact step_of_fetch_stopped hrun hf
    · exact step_of_unknownOpcode hrun hf hd
  have hstopped : StoppedBy c s (s.beginCycle.raise c) := stoppedBy_raise s.beginCycle_pc c
  exact ⟨_, hstep, hstopped, State.cycleResult_of_halted hstopped.run, KeepsRegsBut.of_v s.beginCycle_v _,
    ((keepsAllBut_beginCycle s).mono (by simp)).raise (by simp) (by simp) c⟩
end

section
/-! PROOFS of the statements of 41_arith_logic.md (O28 to O35): the values of the flags and shifts as natural numbers, then one
lemma for each shape of write these instructions make (Vx alone, Vx and then VF, VF and then Vx), then the eight statements. -/

namespace Sys2Proof.Machine

/-! ## Values (R78 to R82, R84) -/

theorem carryFlag_eq (a b : Byte) : carryFlag a b = if a.toNat + b.toNat > 255 then 1#8 else 0#8 := by
  simp only [carryFlag, flagByte, decide_eq_true_eq]

theorem noBorrowFlag_eq (a b : Byte) : noBorrowFlag a b = if a.toNat ≥ b.toNat then 1#8 else 0#8 := by
  simp only [noBorrowFlag, flagByte, decide_eq_true_eq]

/-- The difference modulo 256, read as the integers the statements subtract. -/
theorem toNat_sub_eq_emod (a b : Byte) : ((a - b).toNat : Int) = (a.toNat - b.toNat : Int) % 256 := by
  rw [BitVec.toNat_sub]
  omega

theorem toNat_shiftRight_one (a : Byte) : (a >>> 1).toNat = a.toNat / 2 := by
  rw [BitVec.toNat_ushiftRight, Nat.shiftRight_eq_div_pow, Nat.pow_one]

theorem toNat_shiftLeft_one (a : Byte) : (a <<< 1).toNat = a.toNat * 2 % 256 := by
  rw [BitVec.toNat_shiftLeft, Nat.shiftLeft_eq, Nat.pow_one]

theorem shiftedOutRight_toNat (a : Byte) : (shiftedOutRight a).toNat = a.toNat % 2 := by
  rw [shiftedOutRight, BitVec.toNat_and]
  exact Nat.and_one_is_mod a.toNat

theorem shiftedOutLeft_toNat (a : Byte) : (shiftedOutLeft a).toNat = a.toNat / 128 := by
  have hlt := a.isLt
  have hbit : (shiftedOutLeft a).toNat = a.toNat / 128 % 2 := by
    rw [shiftedOutLeft, BitVec.toNat_and, BitVec.toNat_ushiftRight, Nat.shiftRight_eq_div_pow]
    exact Nat.and_one_is_mod (a.toNat / 128)
  omega

/-- What 8XY6 leaves in VF when X = F: the flag it has just written, shifted out again (D9). -/
theorem shiftedOutRight_shiftRight_one (a : Byte) : shiftedOutRight a >>> 1 = 0#8 := by
  apply BitVec.eq_of_toNat_eq
  rw [toNat_shiftRight_one, shiftedOutRight_toNat, BitVec.toNat_zero]
  omega

/-- What 8XYE leaves in VF when X = F (D9). -/
theorem toNat_shiftedOutLeft_shiftLeft_one (a : Byte) : (shiftedOutLeft a <<< 1).toNat = a.toNat / 128 * 2 := by
  have hlt := a.isLt
  rw [toNat_shiftLeft_one, shiftedOutLeft_toNat]
  omega

/-! ## The shapes of an instruction's writes -/

section Writes

variable {i : Instr} {s : State} {x : Reg} {v f : Byte}

/-- One write, of Vx. -/
theorem completes_of_setV (h : exec i s = .next (s.setV x v).advance) : ∃ t, exec i s = .next t ∧
    t.getV x = v ∧ t.pc = s.pc + 2#16 ∧ KeepsRegsBut (· = x) s t ∧ KeepsAllBut [] s t :=
  ⟨_, h, s.getV_setV_same x v, rfl, ((KeepsRegsBut.refl (· = x) s).setV rfl v).trans_v_eq rfl,
    ((KeepsAllBut.refl _ s).setV x v).advance⟩

/-- One write, of a value known bit by bit. -/
theorem completes_of_setV_bits {bit : Nat → Bool} (h : exec i s = .next (s.setV x v).advance)
    (hbit : ∀ b, v.getLsbD b = bit b) : ∃ t, exec i s = .next t ∧ t.pc = s.pc + 2#16 ∧ KeepsRegsBut (· = x) s t ∧
      KeepsAllBut [] s t ∧ ∀ b, (t.getV x).getLsbD b = bit b := by
  obtain ⟨t, ht, rfl, hpc, hregs, hkeep⟩ := completes_of_setV h
  exact ⟨t, ht, hpc, hregs, hkeep, hbit⟩

/-- Vx, then the flag: for X = F the flag wins (D9). -/
theorem completes_of_setV_setFlag (h : exec i s = .next ((s.setV x v).setFlag f).advance) : ∃ t, exec i s = .next t ∧
    t.getV VF = f ∧ (x ≠ VF → t.getV x = v) ∧
    t.pc = s.pc + 2#16 ∧ KeepsRegsBut (fun r => r = x ∨ r = VF) s t ∧ KeepsAllBut [] s t := by
  refine ⟨_, h, State.getV_setV_same _ VF f, fun hx => ?_, rfl,
    (((KeepsRegsBut.refl _ s).setV (.inl rfl) v).setFlag (.inr rfl) f).trans_v_eq rfl,
    (((KeepsAllBut.refl _ s).setV x v).setV VF f).advance⟩
  rw [State.advance_getV, State.getV_setFlag, if_neg hx, State.getV_setV_same]

/-- A difference, then its no-borrow flag: 8XY5 and 8XY7 differ in which operand is the minuend. -/
theorem completes_of_subtract {a b : Byte} (h : exec i s = .next ((s.setV x (a - b)).setFlag (noBorrowFlag a b)).advance) :
    ∃ t, exec i s = .next t ∧ (t.getV VF = if a.toNat ≥ b.toNat then 1#8 else 0#8) ∧
      (x ≠ VF → ((t.getV x).toNat : Int) = (a.toNat - b.toNat : Int) % 256) ∧
      t.pc = s.pc + 2#16 ∧ KeepsRegsBut (fun r => r = x ∨ r = VF) s t ∧ KeepsAllBut [] s t := by
  obtain ⟨t, ht, hflag, hval, hframe⟩ := completes_of_setV_setFlag h
  exact ⟨t, ht, hflag.trans (noBorrowFlag_eq a b), fun hx => by rw [hval hx, toNat_sub_eq_emod], hframe⟩

/-- The flag, then Vx by a shift of what it then holds: for X = F that is the flag (D9). -/
theorem completes_of_setFlag_setV (shift : Byte → Byte)
    (h : exec i s = .next ((s.setFlag f).setV x (shift ((s.setFlag f).getV x))).advance) : ∃ t, exec i s = .next t ∧
      (x ≠ VF → t.getV x = shift (s.getV x) ∧ t.getV VF = f) ∧ (x = VF → t.getV VF = shift f) ∧
      t.pc = s.pc + 2#16 ∧ KeepsRegsBut (fun r => r = x ∨ r = VF) s t ∧ KeepsAllBut [] s t := by
  refine ⟨_, h, fun hx => ⟨?_, ?_⟩, fun hx => ?_, rfl,
    (((KeepsRegsBut.refl _ s).setFlag (.inr rfl) f).setV (.inl rfl) _).trans_v_eq rfl,
    (((KeepsAllBut.refl _ s).setV VF f).setV x _).advance⟩
  · rw [State.advance_getV, State.getV_setV_same, State.getV_setFlag, if_neg hx]
  · rw [State.advance_getV, State.getV_setV_ne _ _ hx.symm, State.getV_setFlag, if_pos rfl]
  · subst hx
    rw [State.advance_getV, State.getV_setV_same, State.getV_setFlag, if_pos rfl]

end Writes

end Sys2Proof.Machine

open Sys2Proof Sys2Proof.Machine

/-- Settles O28: the dispatch of class 6 reads no more of the word, and the one write is of Vx. -/
theorem loadImmediate : Obligations.LoadImmediate :=
  ⟨fun op hc => by simp only [decodeWord, hc], fun _ _ _ => completes_of_setV rfl⟩

/-- Settles O29: the dispatch of class 8 is on N, and the one write is of Vx. -/
theorem copyRegister : Obligations.CopyRegister :=
  ⟨fun op hc hn => by simp only [decodeWord, decodeClass8, hc, hn], fun _ _ _ => completes_of_setV rfl⟩

/-- Settles O30: the one write is of Vx, with the sum of bytes. -/
theorem addImmediateWraps : Obligations.AddImmediateWraps := by
  intro x nn s
  obtain ⟨t, ht, hval, hframe⟩ := completes_of_setV (i := .addImm x nn) (s := s) rfl
  exact ⟨t, ht, by rw [hval, BitVec.toNat_add], hframe⟩

/-- Settles O31: each of the three writes Vx alone, with a value whose bits are those of the operands combined. -/
theorem bitwiseInstructions : Obligations.BitwiseInstructions := fun _ _ _ =>
  ⟨completes_of_setV_bits rfl fun _ => BitVec.getLsbD_or, completes_of_setV_bits rfl fun _ => BitVec.getLsbD_and,
    completes_of_setV_bits rfl fun _ => BitVec.getLsbD_xor⟩

/-- Settles O32: Vx is written first, then VF with the carry of the old operands. -/
theorem addSetsCarry : Obligations.AddSetsCarry := by
  intro x y s
  obtain ⟨t, ht, hflag, hval, hframe⟩ := completes_of_setV_setFlag (i := .addReg x y) (s := s) rfl
  exact ⟨t, ht, hflag.trans (carryFlag_eq _ _), fun hx => by rw [hval hx, BitVec.toNat_add], hframe⟩

/-- Settles O33: both are one subtraction, with the operands exchanged. -/
theorem subtractSetsNoBorrow : Obligations.SubtractSetsNoBorrow := fun _ _ _ =>
  ⟨completes_of_subtract rfl, completes_of_subtract rfl⟩

/-- Settles O34: VF is written first, then Vx by the shift of what it holds then. -/
theorem shiftsSetTheBitShiftedOut : Obligations.ShiftsSetTheBitShiftedOut := by
  refine fun x y s => ⟨?_, ?_⟩
  · obtain ⟨t, ht, hother, hflag, hframe⟩ := completes_of_setFlag_setV (i := .shr x y) (s := s) (· >>> 1) rfl
    refine ⟨t, ht, fun hx => ?_, fun hx => ?_, hframe⟩
    · obtain ⟨hval, hbit⟩ := hother hx
      rw [hval, hbit]
      exact ⟨toNat_shiftRight_one _, shiftedOutRight_toNat _⟩
    · rw [hflag hx]
      exact shiftedOutRight_shiftRight_one _
  · obtain ⟨t, ht, hother, hflag, hframe⟩ := completes_of_setFlag_setV (i := .shl x y) (s := s) (· <<< 1) rfl
    refine ⟨t, ht, fun hx => ?_, fun hx => ?_, hframe⟩
    · obtain ⟨hval, hbit⟩ := hother hx
      rw [hval, hbit]
      exact ⟨toNat_shiftLeft_one _, shiftedOutLeft_toNat _⟩
    · rw [hflag hx]
      subst hx
      exact toNat_shiftedOutLeft_shiftLeft_one _

/-- Settles O35: the draw is masked in Vx and its index moves on, whatever the draw is (log 4). -/
theorem randomByteIsMasked : Obligations.RandomByteIsMasked := by
  refine fun x nn s => ⟨_, rfl, fun b => ?_, rfl, rfl, ((KeepsRegsBut.refl (· = x) s).takeDraw rfl nn _).trans_v_eq rfl,
    ((KeepsAllBut.refl _ s).takeDraw (by simp) x nn _).advance⟩
  rw [State.advance_getV, State.getV_takeDraw, if_pos rfl, BitVec.getLsbD_and]
end

section
/-! PROOFS of the statements of 42_control.md (O36 to O42): the answer of 2NNN and 00EE from how full the stack is, then one
lemma for each shape of end these instructions have (pc set, a skip, an error before any write), then the seven statements. The
call followed by a return is put together from the statement of each. -/

namespace Sys2Proof.Machine

section Control

variable {i : Instr} {s : State} {w : Word}

/-! ## Stack (R24, R88, R89) -/

theorem State.exists_push (w : Word) (h : s.sp.val < 16) : ∃ u, s.push w = some u :=
  Option.ne_none_iff_exists'.1 (mt State.push_eq_none.1 h.ne)

theorem State.exists_pop (h : 0 < s.sp.val) : ∃ w u, s.pop = some (w, u) := by
  obtain ⟨⟨w, u⟩, hpop⟩ := Option.ne_none_iff_exists'.1 (mt State.pop_eq_none.1 h.ne')
  exact ⟨w, u, hpop⟩

theorem exec_call_of_push {u : State} (nnn : Word) (h : s.push s.pc = some u) : exec (.call nnn) s = .next (u.setPc nnn) := by
  simp only [exec, execCall, h]

theorem exec_ret_of_pop {u : State} (h : s.pop = some (w, u)) : exec .ret s = .next (u.setPc (w + 2#16)) := by
  simp only [exec, execRet, h]

theorem exec_call_of_full (nnn : Word) (h : s.sp.val = 16) : exec (.call nnn) s = .next (s.raise .stackOverflow) := by
  simp only [exec, execCall, State.push_eq_none.2 h]

theorem exec_ret_of_empty (h : s.sp.val = 0) : exec .ret s = .next (s.raise .stackUnderflow) := by
  simp only [exec, execRet, State.pop_eq_none.2 h]

/-! ## Target of BNNN (R94, D3) -/

/-- No reduction modulo 65536 takes place for an NNN that can be encoded. -/
theorem State.toNat_indexedTarget (s : State) (h : AddrFits w) : (s.indexedTarget w).toNat = w.toNat + (s.getV 0).toNat := by
  have hv := (s.getV 0).isLt
  rw [State.indexedTarget, BitVec.toNat_ofNat, Nat.mod_eq_of_lt (by omega)]

/-! ## How these instructions end -/

/-- Nothing but pc is written. -/
theorem completes_of_setPc (h : exec i s = .next (s.setPc w)) : ∃ t, exec i s = .next t ∧
    t.pc = w ∧ KeepsRegsBut (fun _ => False) s t ∧ KeepsAllBut [] s t :=
  ⟨_, h, rfl, .of_v rfl _, (KeepsAllBut.refl _ s).setPc w⟩

/-- A skip that `p` causes and `q` prevents. -/
theorem completes_of_skipIf {c : Bool} {p q : Prop} (h : exec i s = .next (s.skipIf c)) (hp : p → c = true)
    (hq : q → c = false) : ∃ t, exec i s = .next t ∧ (p → t.pc = s.pc + 4#16) ∧ (q → t.pc = s.pc + 2#16) ∧
      KeepsRegsBut (fun _ => False) s t ∧ KeepsAllBut [] s t := by
  obtain ⟨t, ht, hpc, hframe⟩ := completes_of_setPc h
  refine ⟨t, ht, fun h => ?_, fun h => ?_, hframe⟩
  · rw [hpc, hp h, if_pos rfl]
  · rw [hpc, hq h, if_neg Bool.false_ne_true]

/-- An error with no write before it (R118). -/
theorem stopped_of_raise {c : ErrorCause} (h : exec i s = .next (s.raise c)) : ∃ t, exec i s = .next t ∧ StoppedBy c s t ∧
    KeepsRegsBut (fun _ => False) s t ∧ KeepsAllBut [.runState, .flags] s t :=
  ⟨_, h, stoppedBy_raise rfl c, .of_v rfl _, (KeepsAllBut.refl _ s).raise (by simp) (by simp) c⟩

end Control

end Sys2Proof.Machine

open Sys2Proof Sys2Proof.Machine

/-- Settles O36: the one write is of pc. -/
theorem jumpsSetPc : Obligations.JumpsSetPc := by
  refine fun nnn s => ⟨completes_of_setPc rfl, fun hfits => ?_⟩
  obtain ⟨t, ht, hpc, hframe⟩ := completes_of_setPc (i := .jpV0 nnn) (s := s) rfl
  exact ⟨t, ht, by rw [hpc, s.toNat_indexedTarget hfits], hframe⟩

/-- Settles O37: a push of pc where a slot is free, then the jump. -/
theorem callPushesItsOwnAddress : Obligations.CallPushesItsOwnAddress := by
  intro nnn s k hk
  obtain ⟨u, hpush⟩ := State.exists_push s.pc (hk.trans_lt k.isLt)
  obtain ⟨-, hsp, hslot, -⟩ := State.push_eq_some hpush
  obtain ⟨hkeep, hv, -⟩ := keepsAllBut_push hpush
  refine ⟨_, exec_call_of_push nnn hpush, ?_, fun j hj => ?_, ?_, rfl, .of_v hv _, hkeep.setPc nnn⟩
  · rw [State.setPc_slot, hslot, if_pos hk.symm]
  · rw [State.setPc_slot, hslot, if_neg fun h => hj (Fin.ext (h.trans hk))]
  · rw [State.setPc_sp, hsp, hk]

/-- Settles O38: a pop where the stack holds an address, then the jump past it. -/
theorem returnGoesPastTheCall : Obligations.ReturnGoesPastTheCall := by
  intro s k hk
  obtain ⟨w, u, hpop⟩ := State.exists_pop (s := s) (by omega)
  obtain ⟨-, hsp, hw, -⟩ := State.pop_eq_some hpop
  obtain ⟨hkeep, hv, -, hstack⟩ := keepsAllBut_pop hpop
  refine ⟨_, exec_ret_of_pop hpop, ?_, ?_, fun j => ?_, .of_v hv _, hkeep.setPc _⟩
  · rw [State.setPc_pc, hw k (by omega)]
  · rw [State.setPc_sp, hsp, hk, Nat.add_sub_cancel]
  · rw [State.setPc_slot, State.slot, hstack, State.slot]

/-- Settles O39: the push and the pop answer none, and nothing has been written. -/
theorem stackErrorsComeBeforeAnyWrite : Obligations.StackErrorsComeBeforeAnyWrite :=
  ⟨fun nnn _ hfull => stopped_of_raise (exec_call_of_full nnn hfull),
    fun _ hempty => stopped_of_raise (exec_ret_of_empty hempty)⟩

/-- Settles O40: the return pops the slot that the call has pushed. -/
theorem callThenReturn : Obligations.CallThenReturn := by
  intro nnn s hfree
  obtain ⟨t, ht, hpushed, hothers, hspt, -, hregst, hkeept⟩ := callPushesItsOwnAddress nnn s ⟨s.sp.val, hfree⟩ rfl
  obtain ⟨u, hu, hpc, hspu, hslots, hregsu, hkeepu⟩ := returnGoesPastTheCall t ⟨s.sp.val, hfree⟩ hspt
  refine ⟨t, u, ht, hu, by rw [hpc, hpushed], Fin.ext hspu, fun j hj => ?_, hregst.trans hregsu, hkeept.trans hkeepu⟩
  rw [hslots, hothers j (Fin.ne_of_val_ne hj)]

/-- Settles O41: the dispatch of classes 3 and 4 reads no more of the word, and the two conditions are each other's negation. -/
theorem skipOnImmediate : Obligations.SkipOnImmediate := by
  refine ⟨fun op => ⟨fun hc => ?_, fun hc => ?_⟩, fun x nn s => ⟨?_, ?_⟩⟩
  · simp only [decodeWord, hc]
  · simp only [decodeWord, hc]
  · exact completes_of_skipIf rfl decide_eq_true decide_eq_false
  · exact completes_of_skipIf rfl decide_eq_true fun heq => decide_eq_false (not_not_intro heq)

/-- Settles O42: the two conditions are each other's negation, and the dispatch of classes 5 and 9 asks whether N is 0. -/
theorem skipOnRegister : Obligations.SkipOnRegister := by
  refine ⟨fun x y s => ⟨?_, ?_⟩, fun op => ⟨fun hc hn => ?_, fun hc hn => ?_, ?_⟩⟩
  · exact completes_of_skipIf rfl decide_eq_true decide_eq_false
  · exact completes_of_skipIf rfl decide_eq_true fun heq => decide_eq_false (not_not_intro heq)
  · simp only [decodeWord, hc, if_pos hn]
  · simp only [decodeWord, hc, if_pos hn]
  · rintro (hc | hc) hn
    · simp only [decodeWord, hc, if_neg hn]
    · simp only [decodeWord, hc, if_neg hn]
end

section
/-! PROOFS of the statements of 43_memory_ops.md (O43 to O50): first which of the addresses from I upward exist, then one lemma
for each way these instructions end (I set, all bytes stored, stores cut short by the end of memory), then the eight
statements. -/

namespace Sys2Proof.Machine

/-! ## Addresses from I upward (R40, R103) -/

theorem State.dataAddr_eq_add (s : State) (k : Nat) : s.dataAddr k = s.dataAddr 0 + k := rfl

/-- Where the access of Vx is past memory, the registers before the failing access are those whose address exists. -/
theorem State.dataAddr_le_iff_of_lt {s : State} {x k : Reg} (h : 0xFFF < s.dataAddr x.val) :
    s.dataAddr k.val ≤ 0xFFF ↔ k ≤ x ∧ k.val < memSize - s.dataAddr 0 := by
  rw [State.dataAddr_eq_add] at h ⊢
  rw [← lt_memSize_iff, Fin.le_def]
  have hsize : memSize = 0x1000 := rfl
  omega

/-! ## How these instructions end -/

section MemoryOps

variable {i : Instr} {s : State} {w : Word} {bs : List Byte} {n : Nat}

/-- One write, of I. -/
theorem completes_of_setI (h : exec i s = .next (s.setI w).advance) : ∃ t, exec i s = .next t ∧
    t.i = w ∧ t.pc = s.pc + 2#16 ∧ KeepsRegsBut (fun _ => False) s t ∧ KeepsAllBut [.index] s t :=
  ⟨_, h, rfl, rfl, .of_v rfl _, ((KeepsAllBut.refl _ s).setI (by simp) w).advance⟩

/-- An access that fails after writes that keep pc: the first address past memory is I, or 0x1000 where I is below it (R117). -/
theorem stoppedBy_outOfBounds {u : State} (hpc : u.pc = s.pc) :
    StoppedBy (.outOfBounds (max (s.dataAddr 0) 0x1000)) s
      (u.raise (.outOfBounds (s.dataAddr 0 + (memSize - s.dataAddr 0)))) := by
  rw [add_tsub_eq_max]
  exact stoppedBy_raise hpc _

/-- Bytes stored from I upward, the last of them in memory. -/
theorem completes_of_storeBytes (h : exec i s = (State.storeBytes bs (s.dataAddr 0) s).finish State.advance)
    (hlen : bs.length = n + 1) (hwf : s.MemWf) (hfit : s.dataAddr n ≤ 0xFFF) : ∃ t, exec i s = .next t ∧
      (∀ j b, bs[j]? = some b → t.byteAt (s.dataAddr j) = b) ∧
      (∀ a, a < s.dataAddr 0 ∨ s.dataAddr n < a → t.byteAt a = s.byteAt a) ∧
      t.pc = s.pc + 2#16 ∧ KeepsRegsBut (fun _ => False) s t ∧ KeepsAllBut [.memory] s t := by
  have hend : s.dataAddr 0 + bs.length ≤ memSize := by rw [hlen]; exact lt_memSize_iff.2 hfit
  rw [State.storeBytes_eq, if_pos (by omega)] at h
  refine ⟨_, h, fun j b hb => State.byteAt_copyBytes_of_getElem? hwf hend hb,
    fun a ha => State.byteAt_copyBytes_out bs s ?_, by simp, .of_v (by simp) _,
    ((KeepsAllBut.refl _ s).copyBytes (by simp) _ _).advance⟩
  rwa [hlen]

/-- Bytes stored from I upward, the last of them past memory: those that fit are written (D11). -/
theorem stopped_of_storeBytes (h : exec i s = (State.storeBytes bs (s.dataAddr 0) s).finish State.advance)
    (hlen : bs.length = n + 1) (hwf : s.MemWf) (hpast : 0xFFF < s.dataAddr n) : ∃ t, exec i s = .next t ∧
      StoppedBy (.outOfBounds (max (s.dataAddr 0) 0x1000)) s t ∧
      (∀ j b, bs[j]? = some b → s.dataAddr j ≤ 0xFFF → t.byteAt (s.dataAddr j) = b) ∧
      (∀ a, a < s.dataAddr 0 ∨ 0xFFF < a → t.byteAt a = s.byteAt a) ∧
      KeepsRegsBut (fun _ => False) s t ∧ KeepsAllBut [.memory, .runState, .flags] s t := by
  have hsize : memSize = 0x1000 := rfl
  rw [State.dataAddr_eq_add] at hpast
  rw [State.storeBytes_eq, if_neg (by omega)] at h
  refine ⟨_, h, stoppedBy_outOfBounds (State.copyBytes_pc ..), fun j b hb hj => ?_, fun a ha => ?_, .of_v (by simp) _,
    ((KeepsAllBut.refl _ s).copyBytes (by simp) _ _).raise (by simp) (by simp) _⟩
  · rw [State.dataAddr_eq_add] at hj
    refine State.byteAt_copyBytes_of_getElem? hwf ?_ ((List.getElem?_take_of_lt (by omega)).trans hb)
    rw [List.length_take]
    omega
  · refine State.byteAt_copyBytes_out _ s ?_
    rw [List.length_take]
    omega

end MemoryOps

end Sys2Proof.Machine

open Sys2Proof Sys2Proof.Machine

/-- Settles O45: the three digits are one sequence of stores, which fits. -/
theorem bcdStoresThreeDigits : Obligations.BcdStoresThreeDigits := by
  intro x s hwf hfit
  obtain ⟨hundreds, tens, units, hdigits, hh, ht, hu⟩ := decimalDigits_values (s.getV x)
  obtain ⟨t, hexec, hbytes, hframe⟩ := completes_of_storeBytes (i := .bcd x) rfl rfl hwf hfit
  rw [hdigits] at hbytes
  refine ⟨t, hexec, ?_, ?_, ?_, hframe⟩
  · rw [hbytes 0 hundreds rfl, hh]
  · rw [hbytes 1 tens rfl, ht]
  · rw [hbytes 2 units rfl, hu]

/-- Settles O46: the last digit is past memory, so at most hundreds and tens are written. -/
theorem bcdStopsPastMemory : Obligations.BcdStopsPastMemory := by
  intro x s hwf hpast
  obtain ⟨hundreds, tens, units, hdigits, hh, ht, -⟩ := decimalDigits_values (s.getV x)
  obtain ⟨t, hexec, hstopped, hbytes, hframe⟩ := stopped_of_storeBytes (i := .bcd x) rfl rfl hwf hpast
  rw [hdigits] at hbytes
  refine ⟨t, hexec, hstopped, fun h0 => ?_, fun h1 => ?_, hframe⟩
  · rw [hbytes 0 hundreds rfl h0, hh]
  · rw [hbytes 1 tens rfl h1, ht]

/-- Settles O47: byte k of the sequence stored is Vk. -/
theorem storeRegisters : Obligations.StoreRegisters := by
  intro x s hwf hfit
  obtain ⟨t, hexec, hbytes, hframe⟩ := completes_of_storeBytes (i := .stRegs x) rfl (s.length_valuesUpTo x) hwf hfit
  exact ⟨t, hexec, fun k hk => hbytes k.val _ (s.valuesUpTo_getElem? hk), hframe⟩

/-- Settles O48: a register whose address exists comes before Vx, whose address does not. -/
theorem storeRegistersStopsPastMemory : Obligations.StoreRegistersStopsPastMemory := by
  intro x s hwf hpast
  obtain ⟨t, hexec, hstopped, hbytes, hframe⟩ :=
    stopped_of_storeBytes (i := .stRegs x) rfl (s.length_valuesUpTo x) hwf hpast
  refine ⟨t, hexec, hstopped, fun k hk => ?_, hframe⟩
  obtain ⟨hkx, -⟩ := (State.dataAddr_le_iff_of_lt hpast).1 hk
  exact hbytes k.val _ (s.valuesUpTo_getElem? hkx) hk

/-- Settles O49: register k of the sequence loaded is Vk, and no register comes twice. -/
theorem loadRegisters : Obligations.LoadRegisters := by
  intro x s hfit
  obtain ⟨-, hexec⟩ | ⟨hpast, -⟩ := execLdRegs_cases x s
  · refine ⟨_, hexec, fun k hk => ?_, by simp,
      ((KeepsRegsBut.refl (· ≤ x) s).loaded (fun r => (mem_regsUpTo x r).1) _).trans_v_eq rfl,
      ((KeepsAllBut.refl _ s).loaded _ _).advance⟩
    have hk' : (regsUpTo x)[k.val]? = some k := by rw [getElem?_regsUpTo, if_pos hk]
    exact State.getV_loaded_in (nodup_regsUpTo x) hk'
  · exact absurd (lt_memSize_iff.2 hfit) hpast.not_gt

/-- Settles O50: the registers loaded before the failing access are those whose address exists. -/
theorem loadRegistersStopsPastMemory : Obligations.LoadRegistersStopsPastMemory := by
  intro x s hpast
  obtain ⟨hfit, -⟩ | ⟨-, hexec⟩ := execLdRegs_cases x s
  · exact absurd (lt_memSize_iff.1 hfit) hpast.not_ge
  · refine ⟨_, hexec, stoppedBy_outOfBounds (State.loaded_pc ..), fun k hk => ?_, fun k hk => ?_,
      ((KeepsAllBut.refl _ s).loaded _ _).raise (by simp) (by simp) _⟩
    · rw [State.raise_getV, State.getV_loaded_take, if_pos ((State.dataAddr_le_iff_of_lt hpast).1 hk),
        ← State.dataAddr_eq_add]
    · rw [State.raise_getV, State.getV_loaded_take, if_neg (mt (State.dataAddr_le_iff_of_lt hpast).2 hk)]

/-- Settles O43: the dispatch of class A reads no more of the word, NNN has 12 bits, and the one write is of I. -/
theorem loadIndex : Obligations.LoadIndex := by
  refine ⟨fun op hc => ⟨by simp only [decodeWord, hc], fieldNNN_fits op⟩, fun nnn s => ?_⟩
  obtain ⟨t, ht, hi, hframe⟩ := completes_of_setI (i := .ldI nnn) (s := s) rfl
  exact ⟨t, ht, hi, fun hfits => by rw [hi, Nat.div_eq_of_lt hfits], hframe⟩

/-- Settles O44: both write I alone, and no glyph address passes 65535. -/
theorem addIndexAndGlyphAddress : Obligations.AddIndexAndGlyphAddress := by
  refine fun x s => ⟨?_, ?_⟩
  · obtain ⟨t, ht, hi, hframe⟩ := completes_of_setI (i := .addI x) (s := s) rfl
    refine ⟨t, ht, ?_, hframe⟩
    rw [hi, BitVec.toNat_add, BitVec.toNat_setWidth_of_le (by decide)]
  · obtain ⟨t, ht, hi, hframe⟩ := completes_of_setI (i := .ldF x) (s := s) rfl
    refine ⟨t, ht, ?_, hframe⟩
    have hbase := s.params.fontBase.isLt
    rw [hi, State.glyphAddr, BitVec.toNat_ofNat, State.lowNibble_val, Nat.mod_eq_of_lt (by omega)]
end

section
/-! PROOFS of the statements of 44_draw.md (O51 to O54): the state with the first rows of a sprite drawn and what it keeps, what
it means to draw the same sprite on it once more, then the four statements. -/

namespace Sys2Proof.Machine

section Drawing

variable {s t u : State} {x y : Reg} {n : Nat} {k : Fin 2048}

/-! ## The first rows of a sprite, drawn (R105 to R107) -/

/-- What DXYN has written once n of its rows are drawn: VF reset, then the cells flipped at the coordinates from before the
reset (D10). -/
def State.withSprite (s : State) (x y : Reg) (n : Nat) : State :=
  (s.setFlag 0#8).flips (s.spriteCells (s.getV x).toNat (s.getV y).toNat n 0)

@[simp] theorem State.withSprite_pc (s : State) (x y : Reg) (n : Nat) : (s.withSprite x y n).pc = s.pc := State.flips_pc ..

@[simp] theorem State.withSprite_out (s : State) (x y : Reg) (n : Nat) : (s.withSprite x y n).out = s.out := State.flips_out ..

/-- No cell is under two bits of one sprite, so the flips of single cells add up to the sprite. -/
theorem spriteDrawn_withSprite (s : State) (x y : Reg) (hn : n ≤ 16) : SpriteDrawn s (s.withSprite x y n) x y n := by
  have hnodup : (s.spriteCells (s.getV x).toNat (s.getV y).toNat n 0).Nodup := s.nodup_spriteCells _ _ (by omega)
  have hcollides : (VF = VF ∧ ∃ k ∈ s.spriteCells (s.getV x).toNat (s.getV y).toNat n 0, (s.setFlag 0#8).getPixel k = 1#1) ↔
      SpriteCollides s x y n := by
    simp only [true_and, mem_spriteCells_iff, State.setFlag_getPixel, SpriteCollides]
  refine ⟨fun k hk => ?_, fun k hk => ?_, fun hc => ?_, fun hc => ?_⟩
  · rw [State.withSprite, State.getPixel_flips hnodup, if_pos (mem_spriteCells_iff.2 hk), State.setFlag_getPixel]
  · rw [State.withSprite, State.getPixel_flips hnodup, if_neg (mt mem_spriteCells_iff.1 hk), State.setFlag_getPixel]
  · rw [State.withSprite, State.getV_flips hnodup, if_pos (hcollides.2 hc)]
  · rw [State.withSprite, State.getV_flips hnodup, if_neg (mt hcollides.1 hc), State.getV_setFlag, if_pos rfl]

theorem keepsRegsBut_withSprite (s : State) (x y : Reg) (n : Nat) : KeepsRegsBut (· = VF) s (s.withSprite x y n) :=
  ((KeepsRegsBut.refl (· = VF) s).setFlag rfl 0#8).flips rfl _

theorem keepsAllBut_withSprite (s : State) (x y : Reg) (n : Nat) {ps : List Piece} (hp : .framebuffer ∈ ps) :
    KeepsAllBut ps s (s.withSprite x y n) :=
  ((KeepsAllBut.refl ps s).setV VF 0#8).flips hp _

/-- An update that leaves V and the framebuffer alone may follow. -/
theorem SpriteDrawn.trans_eq (h : SpriteDrawn s t x y n) (hv : u.v = t.v) (hfb : u.fb = t.fb) : SpriteDrawn s u x y n := by
  have hpixel : ∀ k, u.getPixel k = t.getPixel k := fun k => by simp only [State.getPixel, hfb]
  have hreg : ∀ r, u.getV r = t.getV r := fun r => by simp only [State.getV, hv]
  exact ⟨fun k hk => (hpixel k).trans (h.covered k hk), fun k hk => (hpixel k).trans (h.others k hk),
    fun hc => (hreg VF).trans (h.collision hc), fun hc => (hreg VF).trans (h.noCollision hc)⟩

theorem exec_drw_of_le (x y : Reg) (h : n = 0 ∨ s.dataAddr (n - 1) ≤ 0xFFF) :
    exec (.drw x y n) s = .next (s.withSprite x y n).endDraw := by
  obtain ⟨-, hexec⟩ | ⟨hpos, hpast, -⟩ := execDrw_cases x y n s
  · exact hexec
  · exact absurd (lt_memSize_iff.2 (h.resolve_left hpos.ne')) hpast.not_gt

theorem exec_drw_of_lt (x y : Reg) (hpos : 0 < n) (h : 0xFFF < s.dataAddr (n - 1)) :
    exec (.drw x y n) s = .next ((s.withSprite x y (memSize - s.dataAddr 0)).raise
      (.outOfBounds (s.dataAddr 0 + (memSize - s.dataAddr 0)))) := by
  obtain ⟨hfit, -⟩ | ⟨-, -, hexec⟩ := execDrw_cases x y n s
  · exact absurd (lt_memSize_iff.1 (hfit.resolve_left hpos.ne')) h.not_ge
  · exact hexec

/-! ## The same sprite once more (95_test_vectors.md P3) -/

/-- Where a sprite lies is read from I, memory, Vx and Vy alone. -/
theorem spriteCovers_congr (hi : t.i = s.i) (hb : ∀ a, t.byteAt a = s.byteAt a) (hx : t.getV x = s.getV x)
    (hy : t.getV y = s.getV y) : SpriteCovers t x y n k ↔ SpriteCovers s x y n k := by
  simp only [SpriteCovers, State.dataAddr, hi, hb, hx, hy]

theorem SpriteDrawn.flag_eq_one_iff (h : SpriteDrawn s t x y n) : t.getV VF = 1#8 ↔ SpriteCollides s x y n := by
  refine ⟨fun hone => by_contra fun hc => ?_, h.collision⟩
  rw [h.noCollision hc] at hone
  exact absurd hone (by decide)

theorem flipped_eq_one_iff : ∀ p : Pixel, p ^^^ 1#1 = 1#1 ↔ p = 0#1 := by decide

/-- The two flips of a covered cell cancel. -/
theorem SpriteDrawn.twice_getPixel (h : SpriteDrawn s t x y n) (h' : SpriteDrawn t u x y n)
    (hcovers : ∀ k, SpriteCovers t x y n k ↔ SpriteCovers s x y n k) (k : Fin 2048) : u.getPixel k = s.getPixel k := by
  by_cases hk : SpriteCovers s x y n k
  · rw [h'.covered k ((hcovers k).2 hk), h.covered k hk, BitVec.xor_assoc, BitVec.xor_self, BitVec.xor_zero]
  · rw [h'.others k (mt (hcovers k).1 hk), h.others k hk]

/-- The second draw collides where the first one has turned a cell on. -/
theorem SpriteDrawn.collides_again_iff (h : SpriteDrawn s t x y n)
    (hcovers : ∀ k, SpriteCovers t x y n k ↔ SpriteCovers s x y n k) :
    SpriteCollides t x y n ↔ ∃ k, SpriteCovers s x y n k ∧ s.getPixel k = 0#1 := by
  refine exists_congr fun k => ?_
  rw [hcovers k]
  refine and_congr_right fun hk => ?_
  rw [h.covered k hk, flipped_eq_one_iff]

end Drawing

end Sys2Proof.Machine

open Sys2Proof Sys2Proof.Machine

/-- Settles O52: every sprite byte is in memory, so all n rows are drawn. -/
theorem drawSprite : Obligations.DrawSprite := by
  intro x y n s hn hfit
  refine ⟨_, exec_drw_of_le x y hfit, (spriteDrawn_withSprite s x y hn.le).trans_eq rfl rfl, by simp, by simp,
    (keepsRegsBut_withSprite s x y n).trans_v_eq rfl, ?_⟩
  exact ((keepsAllBut_withSprite s x y n (by simp)).setOut (by simp) _).advance

/-- Settles O53: the rows drawn before the failing access are those whose byte has an address below 0x1000, fewer than n. -/
theorem drawStopsPastMemory : Obligations.DrawStopsPastMemory := by
  intro x y n s hn hpos hpast
  have hrows : 0x1000 - s.dataAddr 0 ≤ 16 := by
    rw [State.dataAddr_eq_add] at hpast
    omega
  exact ⟨_, exec_drw_of_lt x y hpos hpast, stoppedBy_outOfBounds (State.withSprite_pc ..),
    (spriteDrawn_withSprite s x y hrows).trans_eq rfl rfl, (keepsRegsBut_withSprite s x y _).trans_v_eq rfl,
    (keepsAllBut_withSprite s x y _ (by simp)).raise (by simp) (by simp) _⟩

/-- Settles O54: the first draw leaves I, memory, Vx and Vy, so the second one covers the same cells. -/
theorem drawingTwiceRestores : Obligations.DrawingTwiceRestores := by
  intro x y n s hn hfit hx hy
  obtain ⟨t, ht, hdrawn, -, -, hregs, hkeep⟩ := drawSprite x y n s hn hfit
  have hi : t.i = s.i := hkeep .index (by simp)
  have hcovers : ∀ k, SpriteCovers t x y n k ↔ SpriteCovers s x y n k := fun _ =>
    spriteCovers_congr hi (hkeep .memory (by simp)) (hregs x hx) (hregs y hy)
  have hfit' : n = 0 ∨ t.dataAddr (n - 1) ≤ 0xFFF := by rwa [State.dataAddr, hi]
  obtain ⟨u, hu, hagain, -⟩ := drawSprite x y n t hn hfit'
  exact ⟨t, u, ht, hu, hdrawn.twice_getPixel hagain hcovers,
    hagain.flag_eq_one_iff.trans (hdrawn.collides_again_iff hcovers)⟩

/-- Settles O51: the framebuffer is replaced as a whole, and of the three flags one is written. -/
theorem clearScreen : Obligations.ClearScreen := fun s =>
  ⟨_, rfl, s.getPixel_clearFb, rfl, rfl, .of_v rfl _,
    (((KeepsAllBut.refl _ s).clearFb (by simp)).setOut (by simp) _).advance⟩
end

section
/-! PROOFS of the statements of 45_timer_key.md (O55 to O58): the cycle around an instruction that keeps the run state and the
flags, then the four statements. The timer writes over a whole cycle are put together from the instruction's own statement. -/

namespace Sys2Proof.Machine

variable {i : Instr} {s u : State} {op : Word}

/-! ## The cycle around a timer write (R61, R69, R123) -/

theorem State.cycleResult_of_running (h : s.run = .running) : s.cycleResult = .ok s.out := by
  simp [State.cycleResult, h]

/-- A tick is all that sets a flag where none was set before. -/
theorem State.tick_out_of_none (h : s.out = Outputs.none) : s.tick.out = ⟨false, false, decide (s.st = 1#8)⟩ := by
  by_cases hst : s.st = 1#8 <;> simp [State.tick, Outputs.none, h, hst]

/-- An instruction that leaves the run state is followed by one tick. -/
theorem step_of_keepsRun (hrun : s.run = .running) (hf : s.fetch = .word op) (hd : decodeWord op = .instr i)
    (he : exec i s.beginCycle = .next u) (hkeep : u.run = s.beginCycle.run) :
    step s = .next u.tick ∧ u.tick.run = .running := by
  have hurun : u.run = .running := hkeep.trans (s.beginCycle_run.trans hrun)
  have hhalt : u.isHalted = false := by simp only [State.isHalted, hurun]
  rw [step_of_exec hrun hf hd he, State.endCycle_of_not_halted hhalt]
  exact ⟨rfl, u.tick_run.trans hurun⟩

/-! ## The key of EX9E and EXA1 (R108, R109) -/

theorem State.lowNibble_eq_of_val {x k : Reg} (h : k.val = (s.getV x).toNat % 16) : s.lowNibble x = k :=
  Fin.ext ((s.lowNibble_val x).trans h.symm)

end Sys2Proof.Machine

open Sys2Proof Sys2Proof.Machine

/-- Settles O56: each is one write, of Vx or of the timer. -/
theorem timerTransfers : Obligations.TimerTransfers := by
  refine fun x s => ⟨completes_of_setV rfl, ?_, ?_⟩
  · exact ⟨_, rfl, rfl, rfl, .of_v rfl _, ((KeepsAllBut.refl _ s).setDt (by simp) _).advance⟩
  · exact ⟨_, rfl, rfl, rfl, .of_v rfl _, ((KeepsAllBut.refl _ s).setSt (by simp) _).advance⟩

/-- Settles O57: the transfer keeps the run state and the flags, so the cycle's tick follows it with no flag set. -/
theorem timerWritesTickInTheSameCycle : Obligations.TimerWritesTickInTheSameCycle := by
  intro x s op hrun hf
  obtain ⟨-, ⟨u, hu, hdt, -, -, hkeepu⟩, ⟨w, hw, hst, -, -, hkeepw⟩⟩ := timerTransfers x s.beginCycle
  rw [State.beginCycle_getV] at hdt hst
  refine ⟨fun hd => ?_, fun hd => ?_⟩
  · obtain ⟨hstep, -⟩ := step_of_keepsRun hrun hf hd hu (hkeepu .runState (by simp))
    exact ⟨_, hstep, by rw [State.tick_dt, countdown_toNat, hdt]⟩
  · obtain ⟨hstep, htick⟩ := step_of_keepsRun hrun hf hd hw (hkeepw .runState (by simp))
    have hout : w.out = s.beginCycle.out := hkeepw .flags (by simp)
    rw [State.beginCycle_out] at hout
    refine ⟨_, hstep, by rw [State.tick_st, countdown_toNat, hst], ?_⟩
    rw [State.cycleResult_of_running htick, State.tick_out_of_none hout, hst]

/-- Settles O55: the key asked for is the low nibble of Vx, and the dispatch of class E is on NN. -/
theorem skipOnKey : Obligations.SkipOnKey := by
  refine ⟨fun op hc => ⟨fun hn => ?_, fun hn => ?_⟩, fun x k s hk => ?_⟩
  · simp only [decodeWord, hc, if_pos hn]
  · have hne : fieldNN op ≠ 0x9E#8 := by rw [hn]; decide
    simp only [decodeWord, hc, if_neg hne, if_pos hn]
  · obtain rfl := State.lowNibble_eq_of_val hk
    exact ⟨completes_of_skipIf rfl id id, completes_of_skipIf rfl (congrArg not) (congrArg not)⟩

/-- Settles O58: the one write is of the run state. -/
theorem waitForKeyEntersTheWait : Obligations.WaitForKeyEntersTheWait := fun _ s =>
  ⟨_, rfl, rfl, rfl, .of_v rfl _, (KeepsAllBut.refl _ s).setRun (by simp) _⟩
end

section
/-! PROOFS of the statements of 60_exceptions.md (O13, O16, O25): which causes an instruction may raise with, what the timer
tick does to the flags, and what the host's reset keeps, then the three statements. -/

namespace Sys2Proof.Machine

/-! ## What an instruction raises (R115, R117) -/

/-- The causes an instruction may raise with: a full stack in 2NNN, an empty one in 00EE, and an address past memory in the
instructions that access it. -/
inductive RaisesCause : Instr → ErrorCause → Prop
  | stackOverflow (nnn : Word) : RaisesCause (.call nnn) .stackOverflow
  | stackUnderflow : RaisesCause .ret .stackUnderflow
  | outOfBounds {i : Instr} {a : Nat} (hi : i.mayRaise = some .outOfBounds) (ha : memSize ≤ a) :
      RaisesCause i (.outOfBounds a)

section Raising

variable {i : Instr} {s t u : State} {c : ErrorCause} {e : ErrorRecord}

/-- A Halted state did not keep its run state from one that is not Halted. -/
theorem run_ne_of_halted (hs : s.isHalted = false) (ht : t.run = .halted e) : t.run ≠ s.run := fun hkept => by
  rw [← State.isHalted_of_run_eq hkept, State.isHalted_iff.2 ⟨e, ht⟩] at hs
  cases hs

/-- The record of a raise names its cause. -/
theorem State.cause_eq_of_raise (h : (u.raise c).run = .halted e) : e.cause = c := by
  cases h
  rfl

/-- By cases on the instruction: an end that completes keeps the run state or enters a wait, and one that raises names its
cause. The first address at which a sequence of accesses stops is past memory wherever it started. -/
theorem raisesCause_of_exec (hs : s.isHalted = false) (h : exec i s = .next t) (ht : t.run = .halted e) :
    RaisesCause i e.cause := by
  have hkept := run_ne_of_halted hs ht
  have hpast : memSize ≤ s.dataAddr 0 + (memSize - s.dataAddr 0) := le_add_tsub
  cases i with
  | cls | jp | seImm | sneImm | seReg | ldImm | addImm | ldReg | orReg | andReg | xorReg | addReg | subReg | shr | subn | shl
  | sneReg | ldI | jpV0 | rnd | skp | sknp | ldVxDt | ldDtVx | ldStVx | addI | ldF =>
    obtain rfl := next_state_unique h rfl
    exact absurd rfl hkept
  | ldVxK =>
    obtain rfl := next_state_unique h rfl
    cases ht
  | call nnn =>
    obtain ⟨u, hpush, hu⟩ | ⟨-, hu⟩ := execCall_cases nnn s <;> obtain rfl := next_state_unique h hu
    · obtain ⟨-, -, hrun⟩ := keepsAllBut_push hpush
      exact absurd hrun hkept
    · exact State.cause_eq_of_raise ht ▸ .stackOverflow nnn
  | ret =>
    obtain ⟨w, u, hpop, hu⟩ | ⟨-, hu⟩ := execRet_cases s <;> obtain rfl := next_state_unique h hu
    · obtain ⟨-, -, hrun, -⟩ := keepsAllBut_pop hpop
      exact absurd hrun hkept
    · exact State.cause_eq_of_raise ht ▸ .stackUnderflow
  | bcd x =>
    obtain ⟨-, hu⟩ | ⟨-, hu⟩ := execBcd_cases x s <;> obtain rfl := next_state_unique h hu
    · exact absurd (State.copyBytes_run ..) hkept
    · exact State.cause_eq_of_raise ht ▸ .outOfBounds rfl hpast
  | stRegs x =>
    obtain ⟨-, hu⟩ | ⟨-, hu⟩ := execStRegs_cases x s <;> obtain rfl := next_state_unique h hu
    · exact absurd (State.copyBytes_run ..) hkept
    · exact State.cause_eq_of_raise ht ▸ .outOfBounds rfl hpast
  | ldRegs x =>
    obtain ⟨-, hu⟩ | ⟨-, hu⟩ := execLdRegs_cases x s <;> obtain rfl := next_state_unique h hu
    · exact absurd (State.loaded_run ..) hkept
    · exact State.cause_eq_of_raise ht ▸ .outOfBounds rfl hpast
  | drw x y n =>
    obtain ⟨-, hu⟩ | ⟨-, -, hu⟩ := execDrw_cases x y n s <;> obtain rfl := next_state_unique h hu
    · exact absurd (State.flips_run ..) hkept
    · exact State.cause_eq_of_raise ht ▸ .outOfBounds rfl hpast

end Raising

/-! ## The flags of a tick (R123) -/

theorem State.tick_out (s : State) : s.tick.out = if s.st = 1#8 then { s.out with tone := true } else s.out := rfl

theorem State.tick_tone_iff (s : State) : s.tick.out.tone = true ↔ s.out.tone = true ∨ s.st = 1#8 := by
  by_cases h : s.st = 1#8 <;> simp [State.tick_out, h]

theorem State.tick_needsRedraw (s : State) : s.tick.out.needsRedraw = s.out.needsRedraw := by
  rw [State.tick_out]
  split <;> rfl

theorem State.tick_needsClear (s : State) : s.tick.out.needsClear = s.out.needsClear := by
  rw [State.tick_out]
  split <;> rfl

/-! ## The host's reset (R119, R135) -/

/-- Only the model's own indices tell the host's reset from the reset state (log 3, log 4). -/
theorem keepsAllBut_resetWith_hostReset (s : State) :
    KeepsAllBut [.hostInputs, .drawIndex] (State.resetWith s.params) s.hostReset := by
  apply KeepsAllBut.of_fields <;> simp [State.hostReset]

/-- What goes on over the host's reset: the parameters and the model's own indices. -/
theorem keepsAllBut_hostReset (s : State) :
    KeepsAllBut [.index, .delayTimer, .soundTimer, .callStack, .memory, .framebuffer, .keyTable, .runState, .flags]
      s s.hostReset := by
  apply KeepsAllBut.of_fields <;> simp [State.hostReset, State.resetWith]

end Sys2Proof.Machine

open Sys2Proof Sys2Proof.Machine

/-- Settles O16: by cases on the cause, from what an instruction may raise with. -/
theorem onlyTheListedInstructionsRaise : Obligations.OnlyTheListedInstructionsRaise := by
  intro i s t e hs h ht
  obtain ⟨cause, pc⟩ := e
  cases raisesCause_of_exec hs h ht with
  | stackOverflow | stackUnderflow => exact ⟨rfl, nofun, nofun⟩
  | outOfBounds hi ha =>
    refine ⟨hi, fun a' heq => ?_, nofun⟩
    obtain rfl := ErrorCause.outOfBounds.inj heq
    exact ha

/-- Settles O13: the tick by its fields, the cycle by how it ends in each run state. -/
theorem timerTickCountsDown : Obligations.TimerTickCountsDown := by
  intro s
  refine ⟨countdown_toNat _, countdown_toNat _, s.tick_tone_iff, s.tick_needsRedraw, s.tick_needsClear, s.tick_pc,
    .of_v s.tick_v _, keepsAllBut_tick s, fun hrun u hu => ?_, fun _ _ => step_of_waiting, fun hhalt => ?_⟩
  · rw [step_running hrun, hu, endCycleOf_next, State.endCycle_eq]
  · obtain ⟨e, hrun⟩ := State.isHalted_iff.1 hhalt
    exact step_halted hrun

/-- Settles O25: the reset builds the reset state and then puts the model's own indices back. -/
theorem hostResetReinitialises : Obligations.HostResetReinitialises := fun s =>
  ⟨rfl, rfl, .of_v rfl _, keepsAllBut_resetWith_hostReset s, keepsAllBut_hostReset s⟩
end

section
/-! PROOFS of the statements of 70_reset_and_hazards.md (O18, O24, O26, O27): what the reset state holds, piece by piece, and
what `load_program` answers for each image, then the four statements. -/

namespace Sys2Proof.Machine

/-! ## What reset leaves (R32, R135) -/

/-- The font bytes among what reset leaves in memory. -/
theorem Memory.unlisted_font (p : Params) (j : Fin 80) :
    Memory.unlisted p (p.fontBase.val + j.val) = p.fontTable[j] := by
  simp [Memory.unlisted]

/-- Below the font and above it reset leaves 0. -/
theorem Memory.unlisted_outside_font {p : Params} {a : Nat} (h : a < p.fontBase.val ∨ p.fontBase.val + 80 ≤ a) :
    Memory.unlisted p a = 0#8 := by
  rcases h with hbelow | habove
  · rw [Memory.unlisted, if_neg hbelow.not_ge]
  · have hpast : p.fontTable.toList.length ≤ a - p.fontBase.val := by rw [Vector.length_toList]; omega
    rw [Memory.unlisted, if_pos (by omega), List.getElem?_eq_none hpast, Option.getD_none]

theorem State.byteAt_resetWith (p : Params) (a : Nat) : (State.resetWith p).byteAt a = Memory.unlisted p a := rfl

@[simp] theorem State.slot_resetWith (p : Params) (k : Fin 16) : (State.resetWith p).slot k = 0#16 := by
  simp [State.slot, State.resetWith]

@[simp] theorem State.key_resetWith (p : Params) (k : Reg) : (State.resetWith p).key k = false := by
  simp [State.key, State.resetWith]

/-- No stack slot is occupied and the engine is Running, so of the invariant only pc and memory are left to check. -/
theorem State.inv_resetWith (p : Params) : (State.resetWith p).Inv where
  memory := State.reset_memWf p
  pcBound := show (0x200#16).toNat ≤ 0x10FE by decide
  returns _ hk := absurd hk (Nat.not_lt_zero _)
  waiting _ _ hrun := nomatch hrun
  halted _ hrun := nomatch hrun

/-! ## What `load_program` answers (R136) -/

section Loading

variable {s t : State} {bytes : List Byte} {image : Option (List Byte)}

theorem State.loadProgram_of_lt (h : maxImage < bytes.length) :
    s.loadProgram (some bytes) = .err ⟨.imageTooLarge bytes.length, none⟩ s := if_pos h

theorem State.loadProgram_of_le (h : bytes.length ≤ maxImage) :
    s.loadProgram (some bytes) = .ok (State.copyBytes bytes programStart s) := if_neg h.not_gt

/-- Everything an accepted load can be. -/
theorem State.loadProgram_eq_ok (h : s.loadProgram image = .ok t) :
    ∃ bytes, image = some bytes ∧ bytes.length ≤ maxImage ∧ t = State.copyBytes bytes programStart s := by
  cases image with
  | none => cases h
  | some bytes =>
    rcases Nat.lt_or_ge maxImage bytes.length with hlong | hfits
    · cases (State.loadProgram_of_lt hlong).symm.trans h
    · exact ⟨bytes, rfl, hfits, LoadResult.ok.inj (h.symm.trans (State.loadProgram_of_le hfits))⟩

/-- An image of at most 3584 bytes ends inside memory (R7). -/
theorem programStart_add_length_le (h : bytes.length ≤ maxImage) : programStart + bytes.length ≤ memSize :=
  Nat.add_le_add_left h programStart

/-- A copied byte is one the next access reads. -/
theorem State.memRead_copyBytes_in {a j : Nat} (hwf : s.MemWf) (hend : a + bytes.length ≤ memSize) (hj : j < bytes.length) :
    (State.copyBytes bytes a s).memRead (a + j) = some bytes[j] := by
  rw [State.memRead_eq, if_pos (by omega), State.byteAt_copyBytes_in hwf hend hj]

/-- An accepted load keeps every byte below the image, the font's among them (R8, R138). -/
theorem State.byteAt_of_loadProgram {a : Nat} (h : s.loadProgram image = .ok t) (ha : a < programStart) :
    t.byteAt a = s.byteAt a := by
  obtain ⟨bytes, -, -, rfl⟩ := State.loadProgram_eq_ok h
  exact State.byteAt_copyBytes_out bytes s (.inl ha)

end Loading

/-- The font ends at or before the image (R8). -/
theorem fontAddr_lt_programStart (p : Params) (j : Fin 80) : p.fontBase.val + j.val < programStart := by
  have hsize : programStart = 0x200 := rfl
  omega

end Sys2Proof.Machine

open Sys2Proof Sys2Proof.Machine

/-- Settles O26: by the length of the image; one that fits is copied inside memory. -/
theorem loadProgramCopiesOrRejects : Obligations.LoadProgramCopiesOrRejects := by
  refine ⟨fun s => rfl, fun s bytes hwf => ⟨State.loadProgram_of_lt, fun hlen => ?_⟩⟩
  have hend := programStart_add_length_le hlen
  exact ⟨_, State.loadProgram_of_le hlen, fun j hj => State.memRead_copyBytes_in hwf hend hj,
    fun a ha => State.byteAt_copyBytes_out bytes s ha, State.copyBytes_pc .., .of_v (State.copyBytes_v ..) _,
    (KeepsAllBut.refl _ s).copyBytes (by simp) _ _⟩

/-- Settles O27: the font lies below the image, so a load leaves it as reset put it there. -/
theorem fontIsInPlaceAfterLoading : Obligations.FontIsInPlaceAfterLoading := by
  intro p image t hload j
  rw [State.byteAt_of_loadProgram hload (fontAddr_lt_programStart p j), State.byteAt_resetWith, Memory.unlisted_font]

/-- Settles O18: the default font parameters are one case of any. -/
theorem resetMeetsTheInvariant : Obligations.ResetMeetsTheInvariant :=
  ⟨State.inv_resetWith _, State.inv_resetWith⟩

/-- Settles O24: each piece by its lemma; an unlisted byte of memory is the font's or 0. -/
theorem resetLeavesTheSpecifiedState : Obligations.ResetLeavesTheSpecifiedState := by
  refine ⟨rfl, ?_⟩
  rintro p _ rfl
  exact ⟨State.getV_resetWith p, rfl, rfl, rfl, rfl, rfl, State.slot_resetWith p, State.getPixel_resetWith p,
    State.key_resetWith p, rfl, Memory.unlisted_font p, fun _ => Memory.unlisted_outside_font⟩
end
